-- ==== Sys2Proof/Word.lean ====
section
/-! DEFINITION. The words of NCIO: bytes, the 36-bit command word, levels of a one-bit line. -/

namespace Sys2Proof

/-- A channel value, a command byte, an 8-bit register (R18, R27, R33). -/
abbrev Byte := BitVec 8

/-- The command word of format `CMD36` (R70). -/
abbrev CmdWord := BitVec 36

/-- The level of a one-bit line (R14): `true` is HIGH, the bit 1; `false` is LOW, the bit 0.
On `ir_in` a mark is LOW and a space is HIGH; on `dout` nothing is inverted. -/
abbrev Level := Bool

end Sys2Proof
end

