-- ==== Sys2Proof/Config.lean ====
section
/-! DEFINITION. What an implementation fixes: the parameters of R6, the input ports of R20, the
host's open parameters (R6, R130 to R183), and the values the spec leaves free. -/

namespace Sys2Proof

/-- The channel order of a pixel color, fixed per deployment (R6, R53; names from D9). -/
inductive Order
  | grb
  | rgb
  | rgbw
  deriving DecidableEq, Repr

/-- The width `CNT_W` of CLEAR's count operand: 8, 16 or 32 (R6, D11). -/
inductive CntWidth
  | w8
  | w16
  | w32
  deriving DecidableEq, Repr

/-- An inclusive range of tick counts (R19, *Window*). -/
structure Window where
  lo : Nat
  hi : Nat
  deriving DecidableEq, Repr

/-- Every parameter of the block (R6), and the device latch time `T_LATCH_NS` that R7 names.
`leadMark` is `LM_LO`, `LM_HI`; `leadSpace` is `LS_*`; `bitMark` is `BM_*` (bit mark and trail mark);
`zeroSpace` is `ZS_*`; `oneSpace` is `OS_*`. `NCH` is fixed by `order`. -/
structure Params where
  fClkHz    : Nat
  h0        : Nat
  h1        : Nat
  cyc       : Nat
  gap       : Nat
  latchCyc  : Nat
  tLatchNs  : Nat
  order     : Order
  cntW      : CntWidth
  tickDiv   : Nat
  leadMark  : Window
  leadSpace : Window
  bitMark   : Window
  zeroSpace : Window
  oneSpace  : Window
  irAddr    : BitVec 16
  deriving DecidableEq, Repr

/-- The reference instance: every parameter at the reference value of R6 (`T_LATCH_NS` at the
280000 of R7). -/
def Params.reference : Params where
  fClkHz    := 9600000
  h0        := 3
  h1        := 7
  cyc       := 12
  gap       := 4
  latchCyc  := 2688
  tLatchNs  := 280000
  order     := .grb
  cntW      := .w8
  tickDiv   := 960
  leadMark  := { lo := 80, hi := 92 }
  leadSpace := { lo := 43, hi := 47 }
  bitMark   := { lo := 4, hi := 8 }
  zeroSpace := { lo := 4, hi := 8 }
  oneSpace  := { lo := 15, hi := 19 }
  irAddr    := 0x001A#16

/-- The levels at the block's input ports in one cycle (R20); `clk` is the step itself. -/
structure Pins where
  rst      : Bool
  cmdValid : Bool
  cmdWord  : CmdWord
  irIn     : Level
  deriving DecidableEq, Repr, Inhabited

/-- The levels the environment drives in cycle `t` when the state's list of coming levels is at its
end: a free input, any level in any cycle (R9, R10, R223). DESIGN CHOICE (log 2), safe. -/
opaque Config.freePins : Nat → Pins

/-- What `lookup` reads (R131): the identity, or a 64-entry gamma table. -/
inductive Gamma
  | identity
  | table (entries : List Byte)
  deriving DecidableEq, Repr

/-- The host's parameters (R6, R183; all OPEN, D27). `pollSlice` is `POLL_SLICE` in clock cycles, the
model's unit of time (R11, N16; log 19). -/
structure HostParams where
  nPixels    : Nat
  gamma      : Gamma
  cmdPower   : Byte
  cmdBright  : Byte
  cmdSpeed   : Byte
  cmdDensity : Byte
  pollSlice  : Nat
  deriving DecidableEq, Repr

/-- The speed that follows a speed in the host's cycle of speeds; in no source (N15, R182).
DESIGN CHOICE (log 17), safe. -/
opaque Config.nextSpeed : Nat → Nat

/-- The density that follows a density; in no source (N15, R182). DESIGN CHOICE (log 17), safe. -/
opaque Config.nextDensity : Nat → Nat

/-- The initial animation values (`start` before reduction, `speed`, `density`); in no source
(N15, N20). DESIGN CHOICE (log 17), safe. -/
opaque Config.initialAnimation : Nat × Nat × Nat

end Sys2Proof
end

