-- ==== Sys2Proof/Syntax.lean ====
section
/-! DEFINITION. The block's instructions: the five commands of R71, one constructor per row of
spec/opcode_table.json. -/

namespace Sys2Proof

/-- A command (R19, R71). Reserved operation codes (R77) are no rows of the table: the decoder
rejects them by name and the block runs them as no-operations. -/
inductive Instr
  /-- SENDCH `value` (R72, R102): send one channel. -/
  | sendch (value : Byte)
  /-- WRCOLOR `r, g, b, w` (R73, R103): send one color; `w` is always in the word. -/
  | wrcolor (r g b w : Byte)
  /-- CLEAR `n` (R74, R104): send `n` zero colors; `n` is a natural below `2^CNT_W` (R78, log 23). -/
  | clear (n : Nat)
  /-- LATCH (R75, R108): hold the line LOW for the latch time. -/
  | latch
  /-- IRPOLL (R76, R141): one poll of the remote decoder. -/
  | irpoll
  deriving DecidableEq, Repr

end Sys2Proof
end

