-- ==== Sys2Proof/WellFormed.lean ====
section
/-! DEFINITION. Which instruction terms a command word can carry. -/

namespace Sys2Proof

/-- `CNT_W` as a number of bits (R6). -/
def CntWidth.bits : CntWidth → Nat
  | .w8  => 8
  | .w16 => 16
  | .w32 => 32

/-- An instruction a word can carry: CLEAR's count is `CNT_W` bits (R74, R78); every other operand
has its width in its type. -/
def wellFormed (cw : CntWidth) : Instr → Bool
  | .sendch _        => true
  | .wrcolor _ _ _ _ => true
  | .clear n         => decide (n < 2 ^ cw.bits)
  | .latch           => true
  | .irpoll          => true

end Sys2Proof
end

