-- ==== Sys2Proof/Decode.lean ====
section
/-! DEFINITION. The decoder of the command word (R70 to R78, R88), total on all 2^36 words, and the
encoder written from the same table. -/

namespace Sys2Proof

/-- `op = cmd_word[35:32]` (R70). -/
def opField (w : CmdWord) : BitVec 4 := w.extractLsb' 32 4

/-- `arg = cmd_word[31:0]` (R70). -/
def argField (w : CmdWord) : BitVec 32 := w.extractLsb' 0 32

/-- `arg[hi:lo]` for the byte whose lowest bit is `lo` (R13, R72, R73). -/
def argByte (w : CmdWord) (lo : Nat) : Byte := (argField w).extractLsb' lo 8

/-- `n = arg[CNT_W-1:0]` as a natural number (R74, R78). -/
def argCount (cw : CntWidth) (w : CmdWord) : Nat := (argField w).toNat % 2 ^ cw.bits

/-- Why a word is no command of the table: its operation code is reserved (R77). -/
inductive Rejected
  | reserved (op : BitVec 4)
  deriving DecidableEq, Repr

/-- The instruction a command word stands for (R71 to R76, R88), or the name of its rejection. -/
def decode (cw : CntWidth) (w : CmdWord) : Except Rejected Instr :=
  match (opField w).toNat with
  | 0x1 => .ok (.sendch (argByte w 0))
  | 0x2 => .ok (.wrcolor (argByte w 24) (argByte w 16) (argByte w 8) (argByte w 0))
  | 0x3 => .ok (.clear (argCount cw w))
  | 0x4 => .ok .latch
  | 0x8 => .ok .irpoll
  | _   => .error (.reserved (opField w))

/-- The word of an operation code and an operand field (R70). -/
def cmdWordOf (op : BitVec 4) (arg : BitVec 32) : CmdWord := op ++ arg

/-- The operation code of an instruction (R71). -/
def opCode : Instr → BitVec 4
  | .sendch _        => 0x1#4
  | .wrcolor _ _ _ _ => 0x2#4
  | .clear _         => 0x3#4
  | .latch           => 0x4#4
  | .irpoll          => 0x8#4

/-- The operand field of an instruction, ignored bits 0 (R71 to R76; log 21). -/
def operandField : Instr → BitVec 32
  | .sendch value    => 0#24 ++ value
  | .wrcolor r g b w => r ++ (g ++ (b ++ w))
  | .clear n         => BitVec.ofNat 32 n
  | .latch           => 0#32
  | .irpoll          => 0#32

/-- The command word of an instruction (R70 to R76). -/
def encode (i : Instr) : CmdWord := cmdWordOf (opCode i) (operandField i)

/-- The bits of `arg` that the row of R71 does not ignore. -/
def operandMask (cw : CntWidth) : Instr → BitVec 32
  | .sendch _        => 0x000000FF#32
  | .wrcolor _ _ _ _ => 0xFFFFFFFF#32
  | .clear _         => BitVec.ofNat 32 (2 ^ cw.bits - 1)
  | .latch           => 0x00000000#32
  | .irpoll          => 0x00000000#32

/-- The bits of the word that the row of R71 does not ignore: the operation code and the operand. -/
def usedBits (cw : CntWidth) (i : Instr) : CmdWord := cmdWordOf 0xF#4 (operandMask cw i)

/-- What the decoder of the reference instance (`CNT_W` = 8, as spec/opcode_table.json shows it)
reads from a word given as a number; a number of more than 36 bits is no command word (R70; log 22). -/
def decodeTableWord (nbits w : Nat) : Option Instr :=
  if w % 2 ^ nbits < 2 ^ 36 then
    match decode Params.reference.cntW (BitVec.ofNat 36 (w % 2 ^ nbits)) with
    | .ok i    => some i
    | .error _ => none
  else none

end Sys2Proof
end

