-- ==== Sys2Proof/Machine/State.lean ====
section
/-! DEFINITION. The state of the block: the registers of 10_state.md, the input ports' levels, the
parameter record; the reset state; the reasons a step can stop. -/

namespace Sys2Proof.Machine

/-- PTX's sequencing register (R25). -/
inductive Phase
  /-- `P_IDLE`: no transmission. -/
  | idle
  /-- `P_HIGH`: the HIGH phase of the current bit. -/
  | high
  /-- `P_LOW`: the LOW remainder of the current bit cycle. -/
  | low
  /-- `P_LATCH`: the LATCH command's wait. -/
  | latch
  deriving DecidableEq, Repr

/-- IRD's sequencing register (R31). -/
inductive IrState
  /-- `I_IDLE`. -/
  | idle
  /-- `I_LEAD_MARK`. -/
  | leadMark
  /-- `I_LEAD_SPACE`. -/
  | leadSpace
  /-- `I_BIT_MARK`. -/
  | bitMark
  /-- `I_BIT_SPACE`. -/
  | bitSpace
  /-- `I_TRAIL_MARK`. -/
  | trailMark
  deriving DecidableEq, Repr

/-- The block in one cycle. The first four fields are the model's own: the parameters (R6, R39;
log 3), the time (R11; log 4), the input levels of this cycle and of the cycles to come (R20, R21;
log 1). Every other field is a register of R24 to R37. -/
structure State where
  params   : Params
  cycle    : Nat
  pins     : Pins
  feed     : List Pins
  /-- R24: the level of the LED data line. -/
  dout     : Level
  /-- R25. -/
  phase    : Phase
  /-- R26: cycles that remain in the phase, `CNT_CYC_W` bits (log 7). -/
  cnt      : Nat
  /-- R27: the channel value being sent. -/
  sr       : BitVec 8
  /-- R28: bits of the channel not yet finished. -/
  nbits    : BitVec 4
  /-- R29: `chbuf[0]`. -/
  chbuf0   : BitVec 8
  /-- R29: `chbuf[1]`. -/
  chbuf1   : BitVec 8
  /-- R29: `chbuf[2]`. -/
  chbuf2   : BitVec 8
  /-- R29: how many entries of `chbuf` are valid. -/
  nch      : BitVec 2
  /-- R30: zero colors still to start, `CNT_W` bits (log 7). -/
  ncol     : Nat
  /-- R31. -/
  ist      : IrState
  /-- R32: the prescaler, `TICK_W` bits (log 7). -/
  tick     : Nat
  /-- R33: the duration count. -/
  dur      : BitVec 8
  /-- R34: the received bits. -/
  shreg    : BitVec 32
  /-- R35: the number of bits decoded. -/
  nrx      : BitVec 6
  /-- R36. -/
  rspValid : Bool
  /-- R36. -/
  rspOk    : Bool
  /-- R36. -/
  rspCmd   : BitVec 8
  /-- R37: `ir_in` in the cycle before. -/
  irPrev   : Level
  /-- R37: the edge pulse. -/
  wake     : Bool
  deriving DecidableEq, Repr

/-- The block raises no exception and has no fault state (R12, R190): there is no reason to fault. -/
inductive Fault
  deriving DecidableEq, Repr

/-- Why the model gives no next state. -/
inductive Refusal
  /-- Raised by `exec` alone, for an instruction without a meaning yet; no arm does. Safe. -/
  | notModelled (mnemonic : String)
  /-- Raised by a step of a block whose parameter record breaks R6, R7 or R8: the treatment
  `refuse` of U1 and U6 (log 5). No step makes such a record. Safe. -/
  | parametersBreakRules
  deriving DecidableEq, Repr

/-- The input levels in the first cycle after reset: no command offered, the pulled-up line HIGH
(95_test_vectors.md section 5). DESIGN CHOICE (log 4), unsafe. -/
def Pins.atReset : Pins where
  rst      := false
  cmdValid := false
  cmdWord  := 0#36
  irIn     := true

/-- The block in the first cycle after a reset step (R42, R211), the reference instance (R6). -/
def State.reset : State where
  params   := Params.reference
  cycle    := 0
  pins     := Pins.atReset
  feed     := []
  dout     := false
  phase    := .idle
  cnt      := 0
  sr       := 0x00#8
  nbits    := 0#4
  chbuf0   := 0x00#8
  chbuf1   := 0x00#8
  chbuf2   := 0x00#8
  nch      := 0#2
  ncol     := 0
  ist      := .idle
  tick     := 0
  dur      := 0#8
  shreg    := 0x00000000#32
  nrx      := 0#6
  rspValid := false
  rspOk    := false
  rspCmd   := 0x00#8
  irPrev   := true
  wake     := false

end Sys2Proof.Machine
end

