-- ==== Sys2Proof/Machine/Parameters.lean ====
section
/-! DEFINITION. What follows from a parameter record: the constraints R6, R7, R8, and the values the
rules read from it. Every constraint is in the cross-multiplied form of R7 and R231. -/

namespace Sys2Proof.Machine

/-- `NCH`: channels per color (R6). -/
def channelsPerColor (p : Params) : Nat :=
  match p.order with
  | .grb  => 3
  | .rgb  => 3
  | .rgbw => 4

/-- `H(b)`: cycles `dout` is HIGH for the bit `b` (R15). -/
def highCycles (p : Params) (b : Bool) : Nat := if b then p.h1 else p.h0

/-- Cycles of one channel on the line: `8*CYC + GAP` (R82). -/
def channelCycles (p : Params) : Nat := 8 * p.cyc + p.gap

/-- Cycles of one color on the line (R83). -/
def colorCycles (p : Params) : Nat := channelsPerColor p * channelCycles p

/-- `max(H1, CYC + GAP, LATCH_CYC)`: the greatest value `cnt` is loaded with (R26). -/
def maxCnt (p : Params) : Nat := max p.h1 (max (p.cyc + p.gap) p.latchCyc)

/-- The least width in bits that holds `n` (R26, R32). -/
def leastWidth (n : Nat) : Nat := if n = 0 then 0 else n.log2 + 1

/-- `CNT_CYC_W` (R26). -/
def cntCycWidth (p : Params) : Nat := leastWidth (maxCnt p)

/-- `TICK_W` (R32). -/
def tickWidth (p : Params) : Nat := leastWidth (p.tickDiv - 1)

/-- `L_MAX`: the greatest host latency inside a frame (R111). -/
def maxLatency (p : Params) : Nat :=
  9000 * p.fClkHz / 1000000000 - (p.cyc + p.gap + 1)

/-- `K_MAX`: the greatest number of the sample at which a poll ends (R160). -/
def maxPollSamples (p : Params) : Nat :=
  p.leadMark.hi + p.leadSpace.hi + 32 * (p.bitMark.hi + p.oneSpace.hi) + p.bitMark.hi

/-- The domain of a window (R6): `1 <= LO <= HI <= 254`. -/
abbrev windowInDomain (w : Window) : Prop := 1 ≤ w.lo ∧ w.lo ≤ w.hi ∧ w.hi ≤ 254

/-- The domains of R6. -/
abbrev meetsDomains (p : Params) : Prop :=
  0 < p.fClkHz ∧ 1 ≤ p.h0 ∧ 1 ≤ p.h1 ∧ p.h1 < p.cyc ∧ 1 ≤ p.latchCyc ∧ 1 ≤ p.tickDiv ∧
  windowInDomain p.leadMark ∧ windowInDomain p.leadSpace ∧ windowInDomain p.bitMark ∧
  windowInDomain p.zeroSpace ∧ windowInDomain p.oneSpace ∧ p.zeroSpace.hi < p.oneSpace.lo

/-- The constraints R7 puts on the line timing. -/
abbrev meetsLineTiming (p : Params) : Prop :=
  65 * p.fClkHz ≤ 1000000000 * p.h0 ∧ 1000000000 * p.h0 ≤ 500 * p.fClkHz ∧
  625 * p.fClkHz ≤ 1000000000 * p.h1 ∧ 1000000000 * p.h1 ≤ 8500 * p.fClkHz ∧
  1150 * p.fClkHz ≤ 1000000000 * p.cyc ∧
  1000000000 * (p.cyc + p.gap + 1) ≤ 9000 * p.fClkHz ∧
  p.h1 < p.cyc ∧ p.h0 < p.cyc ∧
  p.tLatchNs * p.fClkHz ≤ 1000000000 * p.latchCyc

/-- `n` ticks last at most `d` tenths of a microsecond: `n <= floor(d/(10*T))`, with
`T = TICK_DIV * 10^6 / F_CLK_HZ` microseconds (R8). -/
abbrev ticksAtMost (p : Params) (n d : Nat) : Prop := 10000000 * (n * p.tickDiv) ≤ d * p.fClkHz

/-- `n` ticks last at least `d` tenths of a microsecond: `ceil(d/(10*T)) <= n` (R8). -/
abbrev ticksAtLeast (p : Params) (n d : Nat) : Prop := d * p.fClkHz ≤ 10000000 * (n * p.tickDiv)

/-- The constraints R8 puts on the windows, with the skew of 158 microseconds around the nominal
562.5 (mark, space of a 0), 1687.5 (space of a 1), 9000 and 4500 (leader). `LM_LO` at most
`floor((9000 - S)/T)`: DEDUCED (log 6), safe. -/
abbrev meetsWindows (p : Params) : Prop :=
  ticksAtMost p p.bitMark.lo 4045 ∧ ticksAtLeast p p.bitMark.hi 7205 ∧
  ticksAtMost p p.zeroSpace.lo 4045 ∧ ticksAtLeast p p.zeroSpace.hi 7205 ∧
  ticksAtMost p p.oneSpace.lo 15295 ∧ ticksAtLeast p p.oneSpace.hi 18455 ∧
  ticksAtMost p p.leadMark.lo 88420 ∧ ticksAtLeast p p.leadMark.hi 91580 ∧
  ticksAtMost p p.leadSpace.lo 43420 ∧ ticksAtLeast p p.leadSpace.hi 46580

/-- A parameter record of the block: it meets R6, R7 and R8. -/
abbrev meetsRules (p : Params) : Prop := meetsDomains p ∧ meetsLineTiming p ∧ meetsWindows p

end Sys2Proof.Machine
end

