-- ==== Sys2Proof/Machine/Operands.lean ====
section
/-! DEFINITION. The operands of the commands as the line takes them (R53, R78). -/

namespace Sys2Proof.Machine

/-- The four channel values of a color in line order. -/
structure Channels where
  c0 : Byte
  c1 : Byte
  c2 : Byte
  c3 : Byte
  deriving DecidableEq, Repr

/-- `(c0, c1, c2, c3)` of R103 (R53): with a 3-channel `ORDER` the operand `w` has no effect. -/
def lineOrder (order : Order) (r g b w : Byte) : Channels :=
  match order with
  | .grb  => { c0 := g, c1 := r, c2 := b, c3 := 0x00#8 }
  | .rgb  => { c0 := r, c1 := g, c2 := b, c3 := 0x00#8 }
  | .rgbw => { c0 := r, c1 := g, c2 := b, c3 := w }

/-- The channels that are sent, in line order: the first `NCH` of the four (R53, R83). -/
def sentChannels (p : Params) (r g b w : Byte) : List Byte :=
  let c := lineOrder p.order r g b w
  [c.c0, c.c1, c.c2, c.c3].take (channelsPerColor p)

/-- `NCH - 1` in the two bits of `nch` (R29). -/
def channelsAfterFirst (p : Params) : BitVec 2 := BitVec.ofNat 2 (channelsPerColor p - 1)

end Sys2Proof.Machine
end

