-- ==== Sys2Proof/Machine/Flags.lean ====
section
/-! DEFINITION. What takes the place of flags (R38): `cmd_ready`, the response registers, `wake`.
The block has no arithmetic flags and no condition codes. -/

namespace Sys2Proof.Machine

/-- `cmd_ready` (R22): both units are idle. -/
def State.cmdReady (s : State) : Bool := s.phase == .idle && s.ist == .idle

/-- The block takes a command offered this cycle: it is ready and not being reset (R22, R23). -/
def State.canAccept (s : State) : Bool := s.cmdReady && !s.pins.rst

/-- `fire` (R23). -/
def State.fire (s : State) : Bool := s.pins.cmdValid && s.canAccept

/-- `rsp_valid <- 0`, in every step that ends no IRPOLL (R36). -/
def State.clearPulse (s : State) : State := { s with rspValid := false }

/-- The response of a poll that ends in this step (R36, R143, R155, R156). -/
def State.respond (ok : Bool) (cmd : Byte) (s : State) : State :=
  { s with rspValid := true, rspOk := ok, rspCmd := if ok then cmd else 0x00#8 }

/-- The wake step (R37). -/
def State.wakeStep (s : State) : State :=
  { s with wake := s.pins.irIn != s.irPrev, irPrev := s.pins.irIn }

/-- The block's output ports (R20). -/
structure Outputs where
  cmdReady : Bool
  rspValid : Bool
  rspOk    : Bool
  rspCmd   : Byte
  dout     : Level
  wake     : Bool
  deriving DecidableEq, Repr

/-- The levels at the output ports, a function of the registers only (R20). -/
def State.outputs (s : State) : Outputs where
  cmdReady := s.cmdReady
  rspValid := s.rspValid
  rspOk    := s.rspOk
  rspCmd   := s.rspCmd
  dout     := s.dout
  wake     := s.wake

end Sys2Proof.Machine
end

