-- ==== Sys2Proof/Machine/Ops.lean ====
section
/-! DEFINITION. The operations the meanings and the two engines share: accepting a command, starting
a channel, ending a poll, taking a reset, passing to the next cycle. The block takes no exception
(R190): what it has in the place of exception entry is ABORT (R195), and there is no return (R196). -/

namespace Sys2Proof.Machine

/-- A command offered in a cycle in which the block can take it has its effect; otherwise nothing is
accepted and nothing is remembered (R23, R221; log 8). -/
def onAccept (s : State) (accepted : State) : Host.Outcome State Fault Refusal :=
  if s.canAccept then .next accepted else .next s

/-- `START_CH(v)` (R101). -/
def startChannel (v : Byte) (s : State) : State :=
  { s with
    sr := v, nbits := 8#4, phase := .high, cnt := highCycles s.params v[7], dout := true }

/-- The channels of a color that wait behind the one that starts (R29, R103, R104). -/
def bufferChannels (b0 b1 b2 : Byte) (n : BitVec 2) (s : State) : State :=
  { s with chbuf0 := b0, chbuf1 := b1, chbuf2 := b2, nch := n }

/-- `ncol <- n` (R30). -/
def setColorsLeft (n : Nat) (s : State) : State := { s with ncol := n }

/-- A zero color starts, `more` of them to follow (R104, R107). -/
def startZeroColor (more : Nat) (s : State) : State :=
  setColorsLeft more
    (bufferChannels 0x00#8 0x00#8 0x00#8 (channelsAfterFirst s.params) (startChannel 0x00#8 s))

/-- `ist <- I_IDLE`, `dur <- 0` and the response, all in the step that ends a decode (R155, R156). -/
def endDecode (ok : Bool) (cmd : Byte) (s : State) : State :=
  State.respond ok cmd { s with ist := .idle, dur := 0#8 }

/-- `ABORT` (R155): FAIL; `tick`, `shreg`, `nrx` keep what they hold (log 25). -/
def abortDecode (s : State) : State := endDecode false 0x00#8 s

/-- A new measuring state (R149): the sample that ended one interval is the first of the next. -/
def enterInterval (ist : IrState) (s : State) : State := { s with ist := ist, dur := 1#8 }

/-- Time passes to the next cycle: the input ports take the environment's next levels (R11, R21;
log 1, log 2). -/
def nextCycle (s : State) : State :=
  match s.feed with
  | p :: ps => { s with cycle := s.cycle + 1, pins := p, feed := ps }
  | []      => { s with cycle := s.cycle + 1, pins := Config.freePins (s.cycle + 1), feed := [] }

/-- What every step without reset does beside the units' steps: the wake step, and time (R21). -/
def endCycle (s : State) : State := nextCycle s.wakeStep

/-- `endCycle` after a command that has its outcome. -/
def endCycleOf : Host.Outcome State Fault Refusal → Host.Outcome State Fault Refusal
  | .next s    => .next (endCycle s)
  | .fault r   => .fault r
  | .refused r => .refused r

/-- A step with `rst = 1` (R42, R210): every register takes its reset value, whatever it held and
whatever the other inputs are. The parameters are no register (R39), and time goes on (R11). -/
def resetEdge (s : State) : State :=
  nextCycle { State.reset with params := s.params, cycle := s.cycle, pins := s.pins, feed := s.feed }

/-- Both units at rest, as at the end of a command: what `withFetchWord` needs of a busy block
(log 11). -/
def unitsAtRest (s : State) : State :=
  { s with
    dout := false, phase := .idle, nbits := 0#4, nch := 0#2, ncol := 0, ist := .idle, dur := 0#8 }

end Sys2Proof.Machine
end

