-- ==== Sys2Proof/Machine/Ird.lean ====
section
/-! DEFINITION. IRD, the remote decoder: the meaning of IRPOLL (what it writes in the cycle it
fires), the sampling that runs in the cycles after, and the validation of a frame. -/

namespace Sys2Proof.Machine

/-- Every cause of a FAIL response (R191), for the model's case analysis; the block reports none. -/
inductive FailCause
  /-- 1: the input is not asserted when the poll fires (R143). -/
  | idleLine
  /-- 2: lead mark longer than `LM_HI` (R147). -/
  | leadMarkLong
  /-- 3: lead mark, from the poll, shorter than `LM_LO` (R150). -/
  | leadMarkShort
  /-- 4: lead space outside its window (R147, R151). -/
  | leadSpace
  /-- 5: a bit mark outside its window (R147, R152). -/
  | bitMark
  /-- 6: a bit space outside both windows (R147, R153). -/
  | bitSpace
  /-- 7: trail mark outside its window (R147, R154). -/
  | trailMark
  /-- 8: `cmd1 + cmd2 != 255` (R157). -/
  | commandCheck
  /-- 9: the address is not `IR_ADDR` (R158). -/
  | addressMismatch
  deriving DecidableEq, Repr

/-! ## Validating a frame (R157 to R159) -/

/-- `addr1 = shreg[7:0]` (R157). -/
def addr1 (d : BitVec 32) : Byte := d.extractLsb' 0 8

/-- `addr2 = shreg[15:8]` (R157). -/
def addr2 (d : BitVec 32) : Byte := d.extractLsb' 8 8

/-- `cmd1 = shreg[23:16]` (R157). -/
def cmd1 (d : BitVec 32) : Byte := d.extractLsb' 16 8

/-- `cmd2 = shreg[31:24]` (R157). -/
def cmd2 (d : BitVec 32) : Byte := d.extractLsb' 24 8

/-- The command check (R157): the sum of two naturals, not reduced. -/
def commandChecks (d : BitVec 32) : Bool := (cmd1 d).toNat + (cmd2 d).toNat == 255

/-- The 16-bit address (R158): legacy mode when `addr1 + addr2 = 255`, extended mode otherwise. -/
def frameAddress (a1 a2 : Byte) : BitVec 16 :=
  if a1.toNat + a2.toNat = 255 then 0x00#8 ++ a1 else a2 ++ a1

/-- Why a received frame is rejected, if it is (R157 to R159). Both checks are made (R194 (d)); the
order of the two causes cannot be observed. -/
def frameFault (p : Params) (d : BitVec 32) : Option FailCause :=
  if commandChecks d = false then some .commandCheck
  else if frameAddress (addr1 d) (addr2 d) ≠ p.irAddr then some .addressMismatch
  else none

/-- `ok` of FINISH (R159). -/
def frameAccepted (p : Params) (d : BitVec 32) : Bool := (frameFault p d).isNone

/-- `FINISH` (R156). -/
def finishDecode (s : State) : State := endDecode (frameAccepted s.params s.shreg) (cmd1 s.shreg) s

/-! ## One sample (R145 to R154) -/

/-- What one sample of the input does (R194 (c)): exactly one of these. -/
inductive Verdict
  /-- The interval goes on (R147). -/
  | goesOn
  /-- The measured duration is outside its window (R155). -/
  | abort (cause : FailCause)
  /-- The interval ends inside its window and the next one begins (R150, R151, R152). -/
  | leaveTo (next : IrState)
  /-- A bit space ends inside one of its two windows (R153). -/
  | dataBit (b : Bool)
  /-- The trail mark ends inside its window (R154). -/
  | finish
  deriving DecidableEq, Repr

/-- The level persists (R147): abort when the count is at its upper limit. -/
def persists (dur hi : Nat) (cause : FailCause) : Verdict :=
  if hi ≤ dur then .abort cause else .goesOn

/-- The interval has ended (R150 to R152, R154): abort when the count is below its lower limit. -/
def ends (dur lo : Nat) (cause : FailCause) (v : Verdict) : Verdict :=
  if dur < lo then .abort cause else v

/-- The bit space has ended (R153). -/
def endsBitSpace (p : Params) (dur : Nat) : Verdict :=
  if p.zeroSpace.lo ≤ dur ∧ dur ≤ p.zeroSpace.hi then .dataBit false
  else if p.oneSpace.lo ≤ dur ∧ dur ≤ p.oneSpace.hi then .dataBit true
  else .abort .bitSpace

/-- The verdict on the sample `x` in a measuring state with the count `dur` (R145, table).
In `I_IDLE` no sample is taken; the verdict there is not used. -/
def verdict (p : Params) (ist : IrState) (dur : Nat) (x : Level) : Verdict :=
  match ist, x with
  | .idle, _          => .abort .idleLine
  | .leadMark, false  => persists dur p.leadMark.hi .leadMarkLong
  | .leadMark, true   => ends dur p.leadMark.lo .leadMarkShort (.leaveTo .leadSpace)
  | .leadSpace, true  => persists dur p.leadSpace.hi .leadSpace
  | .leadSpace, false => ends dur p.leadSpace.lo .leadSpace (.leaveTo .bitMark)
  | .bitMark, false   => persists dur p.bitMark.hi .bitMark
  | .bitMark, true    => ends dur p.bitMark.lo .bitMark (.leaveTo .bitSpace)
  | .bitSpace, true   => persists dur p.oneSpace.hi .bitSpace
  | .bitSpace, false  => endsBitSpace p dur
  | .trailMark, false => persists dur p.bitMark.hi .trailMark
  | .trailMark, true  => ends dur p.bitMark.lo .trailMark .finish

/-- A decoded bit enters at bit 31, the rest move toward bit 0 (R34, R153). -/
def receiveBit (b : Bool) (s : State) : State :=
  enterInterval (if s.nrx + 1#6 = 32#6 then .trailMark else .bitMark)
    { s with shreg := BitVec.ofBool b ++ s.shreg.extractLsb' 1 31, nrx := s.nrx + 1#6 }

/-- What a verdict writes. -/
def applyVerdict (v : Verdict) (s : State) : State :=
  match v with
  | .goesOn    => { s with dur := s.dur + 1#8 }
  | .abort _   => abortDecode s
  | .leaveTo n => enterInterval n s
  | .dataBit b => receiveBit b s
  | .finish    => finishDecode s

/-- One sample step (R145). -/
def takeSample (x : Level) (s : State) : State :=
  applyVerdict (verdict s.params s.ist s.dur.toNat x) s

/-- The IRD step in a cycle in which no command fires (R140): the prescaler (R144). -/
def irdStep (s : State) : State :=
  match s.ist with
  | .idle => s
  | .leadMark | .leadSpace | .bitMark | .bitSpace | .trailMark =>
    if s.tick ≠ 0 then { s with tick := s.tick - 1 }
    else takeSample s.pins.irIn { s with tick := s.params.tickDiv - 1 }

/-! ## IRPOLL -/

/-- A poll with the input asserted starts the decode (R142). -/
def beginDecode (s : State) : State :=
  { s with
    ist := .leadMark, dur := 1#8, tick := s.params.tickDiv - 1, shreg := 0x00000000#32, nrx := 0#6 }

/-- IRPOLL (R141): `s_0 = ir_in` in the fire cycle; LOW starts a decode (R142), HIGH ends the poll at
once with FAIL (R143). -/
def execIrpoll (s : State) : Host.Outcome State Fault Refusal :=
  onAccept s (if s.pins.irIn then State.respond false 0x00#8 s else beginDecode s)

end Sys2Proof.Machine
end

