-- ==== Sys2Proof/Machine/Ptx.lean ====
section
/-! DEFINITION. PTX, the pixel transmitter: the meanings of SENDCH, WRCOLOR, CLEAR and LATCH (what
each writes in the cycle it fires), and the sequencing that runs in the cycles after. -/

namespace Sys2Proof.Machine

/-- SENDCH (R102). -/
def execSendch (value : Byte) (s : State) : Host.Outcome State Fault Refusal :=
  onAccept s (setColorsLeft 0 { startChannel value s with nch := 0#2 })

/-- WRCOLOR (R103). -/
def execWrcolor (r g b w : Byte) (s : State) : Host.Outcome State Fault Refusal :=
  let c := lineOrder s.params.order r g b w
  onAccept s
    (setColorsLeft 0
      (bufferChannels c.c1 c.c2 c.c3 (channelsAfterFirst s.params) (startChannel c.c0 s)))

/-- CLEAR (R104): `CLEAR 0` changes no register. -/
def execClear (n : Nat) (s : State) : Host.Outcome State Fault Refusal :=
  onAccept s (if n ≠ 0 then startZeroColor (n - 1) s else s)

/-- LATCH (R108). -/
def execLatch (s : State) : Host.Outcome State Fault Refusal :=
  onAccept s { s with phase := .latch, cnt := s.params.latchCyc }

/-- The end of a channel (R107). -/
def endChannel (s : State) : State :=
  if 0 < s.nch.toNat then
    bufferChannels s.chbuf1 s.chbuf2 0x00#8 (s.nch - 1#2) (startChannel s.chbuf0 s)
  else if 0 < s.ncol then startZeroColor (s.ncol - 1) s
  else { s with phase := .idle, nbits := 0#4 }

/-- `phase = P_HIGH` (R105). -/
def highStep (s : State) : State :=
  if 1 < s.cnt then { s with cnt := s.cnt - 1 }
  else
    { s with
      dout := false, phase := .low,
      cnt := s.params.cyc - highCycles s.params s.sr[7] +
        (if s.nbits = 1#4 then s.params.gap else 0) }

/-- `phase = P_LOW` (R106). -/
def lowStep (s : State) : State :=
  if 1 < s.cnt then { s with cnt := s.cnt - 1 }
  else if 1 < s.nbits.toNat then
    { s with
      sr := s.sr <<< 1, nbits := s.nbits - 1#4, phase := .high,
      cnt := highCycles s.params s.sr[6], dout := true }
  else endChannel s

/-- `phase = P_LATCH` (R108). -/
def latchStep (s : State) : State :=
  if 1 < s.cnt then { s with cnt := s.cnt - 1 } else { s with phase := .idle }

/-- The PTX step in a cycle in which no command fires (R100). -/
def ptxStep (s : State) : State :=
  match s.phase with
  | .idle  => s
  | .high  => highStep s
  | .low   => lowStep s
  | .latch => latchStep s

end Sys2Proof.Machine
end

