-- ==== Sys2Proof/Machine/Dispatch.lean ====
section
/-! DEFINITION. One arm per instruction: what the command writes in the cycle it is offered. -/

namespace Sys2Proof.Machine

-- The effect of a command on the units' registers in the cycle in which it is offered (R100, R140).
-- What every cycle does beside it (the response pulse, the wake step, time) is in Machine/Cycle.lean.
def exec (i : Instr) (s : State) : Host.Outcome State Fault Refusal :=
  match i with
  | .sendch value => Sys2Proof.Machine.execSendch value s
  | .wrcolor r g b w => Sys2Proof.Machine.execWrcolor r g b w s
  | .clear n => Sys2Proof.Machine.execClear n s
  | .latch => Sys2Proof.Machine.execLatch s
  | .irpoll => Sys2Proof.Machine.execIrpoll s

end Sys2Proof.Machine
end

