-- ==== Sys2Proof/Machine/Cycle.lean ====
section
/-! DEFINITION. One clock cycle of the block (R21): reset, or the units' steps, the response
registers' step, the wake step and time. -/

namespace Sys2Proof.Machine

/-- The units' steps in a cycle in which no command fires (R100, R140). They write disjoint sets of
registers (R21), so one after the other is both together. -/
def unitsStep (s : State) : State := irdStep (ptxStep s)

/-- The word on the port is accepted (R23): its instruction runs; a reserved code is a one-cycle
no-operation (R77; log 9). -/
def acceptWord (w : CmdWord) (s : State) : Host.Outcome State Fault Refusal :=
  match decode s.params.cntW w with
  | .ok i    => exec i s
  | .error _ => .next s

/-- One cycle (R21). A parameter record that breaks R6, R7 or R8 gets no meaning (U1, U6; log 5). -/
def clockCycle (s : State) : Host.Outcome State Fault Refusal :=
  if meetsRules s.params then
    if s.pins.rst then .next (resetEdge s)
    else if s.fire then endCycleOf (acceptWord s.pins.cmdWord s.clearPulse)
    else .next (endCycle (unitsStep s.clearPulse))
  else .refused .parametersBreakRules

/-- The pins of a cycle in which the host offers the word `w` and does not reset the block; the IR
line keeps its level. -/
def offerWord (w : CmdWord) (s : State) : State :=
  { s with pins := { s.pins with rst := false, cmdValid := true, cmdWord := w } }

/-- The word of `w` offered to a block that can take it: a busy block is first put at rest (log 10,
log 11). -/
def placeWord (nbits w : Nat) (s : State) : State :=
  offerWord (BitVec.ofNat 36 (w % 2 ^ nbits)) (if s.cmdReady then s else unitsAtRest s)

end Sys2Proof.Machine
end

