-- ==== Sys2Proof/Machine/Step.lean ====
section
/-! DEFINITION. The step: one clock cycle. -/

namespace Sys2Proof.Machine

/-- `S(t+1) = step(S(t), I(t))` (R21), the inputs standing in the state (log 1). -/
def step (s : State) : Host.Outcome State Fault Refusal := clockCycle s

/-- The block fetches nothing (R63): a command exists in the cycle it is accepted. The word is put
on the command port of the present cycle, where the very next step takes it (log 10). -/
def State.withFetchWord (s : State) (nbits w : Nat) : State := placeWord nbits w s

end Sys2Proof.Machine
end

