-- ==== Sys2Proof/Machine/LedString.lean ====
section
/-! DEFINITION. What the LED string makes of the line (R118 to R121, R213): an observer of `dout`, an
agent of its own (R9 (4)) that drives nothing back. -/

namespace Sys2Proof.Machine

/-- The run of the line the string is in. -/
inductive LineRun
  /-- HIGH for `n` cycles so far. -/
  | high (n : Nat)
  /-- LOW for `n` cycles so far, after a HIGH run of `after` cycles; `none`: no HIGH run yet seen. -/
  | low (after : Option Nat) (n : Nat)
  /-- LOW for at least the latch time. -/
  | latched
  deriving DecidableEq, Repr

/-- The string: the bits received since the last latch, oldest first; the corrupt mark of R121, R213
and R218; per pixel the color (its channels in line order) received in the last completed frame (R120),
`none` or no entry where the spec does not determine it (U2, U3, U12). What may be claimed of the
display is `LedString.display`. -/
structure LedString where
  line    : LineRun
  bits    : List Bool
  corrupt : Bool
  shown   : List (Option (List Byte))
  deriving DecidableEq, Repr

/-- The string at power-up: its state is unknown (R212 (5)), so the frame in progress counts as
corrupt until the first latch. DEDUCED (log 14), safe. -/
def LedString.powerUp : LedString where
  line    := .low none 0
  bits    := []
  corrupt := true
  shown   := []

/-- The bit a HIGH run of `n` cycles is received as (R118); `none`: unspecified (U1). -/
def receivedBit (p : Params) (n : Nat) : Option Bool :=
  if 65 * p.fClkHz ≤ 1000000000 * n ∧ 1000000000 * n ≤ 500 * p.fClkHz then some false
  else if 625 * p.fClkHz ≤ 1000000000 * n ∧ 1000000000 * n ≤ 8500 * p.fClkHz then some true
  else none

/-- A bit cycle of `n` cycles is inside 1150 ns to 9000 ns (R118). -/
def cycleInLimits (p : Params) (n : Nat) : Bool :=
  1150 * p.fClkHz ≤ 1000000000 * n && 1000000000 * n ≤ 9000 * p.fClkHz

/-- A LOW run of `n` cycles is at least the device's latch time (R119). -/
def isLatch (p : Params) (n : Nat) : Bool := p.tLatchNs * p.fClkHz ≤ 1000000000 * n

/-- The byte of eight bits, most significant first (R52). -/
def byteOfBits (bs : List Bool) : Byte :=
  BitVec.ofNat 8 (bs.foldl (fun acc b => 2 * acc + b.toNat) 0)

/-- Received bits as whole channels, in order; a rest of fewer than eight bits is no channel. -/
def channelsOfBits : List Bool → List Byte
  | b7 :: b6 :: b5 :: b4 :: b3 :: b2 :: b1 :: b0 :: rest =>
    byteOfBits [b7, b6, b5, b4, b3, b2, b1, b0] :: channelsOfBits rest
  | _ => []

/-- Whole colors of `n` channels, pixel 0 first (R120); a partial color at the end is unspecified
(R57, U3). The first argument bounds the number of colors. -/
def pixelsOfChannels (n : Nat) : Nat → List Byte → List (Option (List Byte))
  | 0, _ => []
  | fuel + 1, cs =>
    if cs = [] then []
    else if cs.length < n then [none]
    else some (cs.take n) :: pixelsOfChannels n fuel (cs.drop n)

/-- What a whole frame of bits makes the pixels show (R120). -/
def pixelsOfBits (p : Params) (bits : List Bool) : List (Option (List Byte)) :=
  let cs := channelsOfBits bits
  let whole := pixelsOfChannels (channelsPerColor p) cs.length cs
  if bits.length % 8 = 0 then whole
  else if cs.length % channelsPerColor p = 0 then whole ++ [none]
  else whole

/-- The frame is corrupt: nothing is known of any pixel until a latch is followed by a whole correct
frame and its latch (R121, R213). -/
def markCorrupt (w : LedString) : LedString := { w with corrupt := true, shown := [] }

/-- The end of a HIGH run of `high` cycles: the bit is received, if it is one of the two (R118); any
other run violates R118 (R121, U1). -/
def receiveHigh (p : Params) (high : Nat) (w : LedString) : LedString :=
  match receivedBit p high with
  | some b => { w with bits := w.bits ++ [b] }
  | none   => markCorrupt w

/-- A rising edge ends the bit cycle of the bit before: outside the limits of R118, and no latch, the
frame is corrupt (R119, R121, U2). -/
def closeBit (p : Params) (after : Option Nat) (low : Nat) (w : LedString) : LedString :=
  match after with
  | none      => w
  | some high => if cycleInLimits p (high + low) then w else markCorrupt w

/-- A latch (R119): the bit before it is the frame's last; the string shows the frame, and the next
bit is the first of pixel 0. After a corrupt frame nothing is known of any pixel (R121). The bit
cycle of the last bit ends at the start of the latch (R19), which sets it no limit (log 14). -/
def latchFrame (p : Params) (w : LedString) : LedString where
  line    := .latched
  bits    := []
  corrupt := false
  shown   := if w.corrupt then [] else pixelsOfBits p w.bits

/-- The string in a HIGH run that is now `n` cycles long: longer than any bit's, it violates R118
already (R121, U1). -/
def highCycle (p : Params) (n : Nat) (w : LedString) : LedString :=
  if 1000000000 * n ≤ 8500 * p.fClkHz then { w with line := .high n }
  else { markCorrupt w with line := .high n }

/-- The string in a LOW run that is now `n` cycles long. Past 9000 ns and short of `T_LATCH_NS` the spec
lets a model assume neither that the string latches nor that it does not (U5): the model waits for the
rising edge or the latch to settle it, and in the meantime `display` knows nothing. DESIGN CHOICE
(log 26). -/
def lowCycle (p : Params) (after : Option Nat) (n : Nat) (w : LedString) : LedString :=
  if isLatch p n then latchFrame p w else { w with line := .low after n }

/-- The string sees the level of one cycle. -/
def observe (p : Params) (w : LedString) (x : Level) : LedString :=
  match w.line, x with
  | .high n, true       => highCycle p (n + 1) w
  | .high n, false      => lowCycle p (some n) 1 (receiveHigh p n w)
  | .low after n, true  => highCycle p 1 (closeBit p after n w)
  | .low after n, false => lowCycle p after (n + 1) w
  | .latched, true      => highCycle p 1 w
  | .latched, false     => w

/-- The string sees the levels of cycles one after another. -/
def observeAll (p : Params) (w : LedString) (xs : List Level) : LedString := xs.foldl (observe p) w

/-- The run in progress is no LOW run past the bit cycle and short of the latch (R119). A HIGH run that
is no bit's has marked the frame by itself. -/
def runInLimits (p : Params) (w : LedString) : Bool :=
  match w.line with
  | .high _         => true
  | .low none _     => true
  | .low (some h) n => 1000000000 * (h + n) ≤ 9000 * p.fClkHz
  | .latched        => true

/-- What is known of the pixels in this cycle: the last completed frame; nothing while the frame in
progress is corrupt (R121) or its LOW run is in neither class (R119, U2, U5; log 26). -/
def LedString.display (p : Params) (w : LedString) : List (Option (List Byte)) :=
  if w.corrupt = false ∧ runInLimits p w then w.shown else []

/-- A reset in the middle of a transmission (R213): the rest of the command is forgotten. A reset in
the transmission's very last cycle counts as one too (log 27). -/
def resetCuts (s : State) : Bool := s.pins.rst && (s.phase == .high || s.phase == .low)

/-- The string sees one cycle of the block: the level of `dout`, and a reset that cuts a transmission,
which leaves the display unknown until a latch and a whole new frame (R213). -/
def observeBlock (p : Params) (w : LedString) (s : State) : LedString :=
  if resetCuts s then markCorrupt (observe p w s.dout) else observe p w s.dout

end Sys2Proof.Machine
end

