-- ==== Sys2Proof/Machine/Animator.lean ====
section
/-! DEFINITION. HueAnimator, software of the host (R4, R130 to R135): which commands a frame is. -/

namespace Sys2Proof.Machine

/-- A gamma table as R131 constrains it: 64 entries, 0 at 0, 255 at 63, never decreasing
(log 18). -/
abbrev gammaMeetsRule : Gamma → Prop
  | .identity      => True
  | .table entries =>
    entries.length = 64 ∧ entries.getD 0 0#8 = 0#8 ∧ entries.getD 63 0#8 = 255#8 ∧
      entries.Pairwise (· ≤ ·)

/-- `lookup(x)`, for `0 <= x <= 63` (R131). -/
def lookup (g : Gamma) (x : Nat) : Byte :=
  match g with
  | .identity      => BitVec.ofNat 8 x
  | .table entries => entries.getD x 0#8

/-- A color as the host computes it. -/
structure Rgb where
  r : Byte
  g : Byte
  b : Byte
  deriving DecidableEq, Repr

/-- `colorForHue(hue)` (R132): the hue is reduced modulo 192 first. -/
def colorForHue (g : Gamma) (hue : Nat) : Rgb :=
  let h := hue % 192
  let step := lookup g (h % 64)
  let nstep := lookup g (63 - h % 64)
  match h / 64 with
  | 0 => { r := nstep, g := step, b := 0#8 }
  | 1 => { r := 0#8, g := nstep, b := step }
  | _ => { r := step, g := 0#8, b := nstep }

/-- The hue of pixel `i` (R133). -/
def pixelHue (start density i : Nat) : Nat := (start + i * density) % 192

/-- The command of one pixel (R133); the host sends `w = 0` (N13). -/
def pixelCommand (g : Gamma) (start density i : Nat) : Instr :=
  let c := colorForHue g (pixelHue start density i)
  .wrcolor c.r c.g c.b 0#8

/-- `renderFrame(start, density, count)` and the latch wait (R133). -/
def renderFrame (g : Gamma) (start density count : Nat) : List Instr :=
  (List.range count).map (pixelCommand g start density) ++ [.latch]

/-- The frame advance (R134). -/
def advanceStart (start speed : Nat) : Nat := (start + speed) % 192

end Sys2Proof.Machine
end

