-- ==== Sys2Proof/Machine/PowerController.lean ====
section
/-! DEFINITION. PowerController, software of the host (R4, R180 to R188), one clock cycle at a time: the
initialisation, the perpetual loop and the wait of STANDBY, from the block's outputs to its inputs. When
the host acts is a free choice of each cycle, within the bounds the rules set (log 16, log 19). -/

namespace Sys2Proof.Machine

/-- The two states (R180). -/
inductive HostMode
  | active
  | standby
  deriving DecidableEq, Repr

/-- What the host goes on with when the commands it is issuing are complete. -/
inductive HostGoal
  /-- After the initialisation's LATCH (R188, R212 (5)): the loop. -/
  | loop
  /-- After a frame and its LATCH (R181): the frame advance and the polls. -/
  | polls
  /-- After the clear and its LATCH (R184): the wait of STANDBY. -/
  | standby
  deriving DecidableEq, Repr

/-- Where the host is in its program. -/
inductive HostPlace
  /-- Initialisation: `rst` is held HIGH (R188, R212 (1)). -/
  | resetting
  /-- The commands `todo` are still to issue, in order; `inFrame`: a transmitting command of this list
  has been issued (R218). When none is left their end is awaited (R219). -/
  | issuing (todo : List Instr) (goal : HostGoal) (inFrame : Bool)
  /-- ACTIVE, in the poll slice, between two polls; `polled`: a poll of this slice has ended (R181). -/
  | slice (polled : Bool)
  /-- An IRPOLL has been accepted and its end is awaited (R224). -/
  | polling (mode : HostMode)
  /-- STANDBY: the halted wait for `wake` (R185). -/
  | waiting
  /-- STANDBY: woken, the poll still to issue (R185). -/
  | woken
  deriving DecidableEq, Repr

/-- The host's variables: its place, the animation state (R130), how many ready cycles it has let pass
since it could issue its next command, and the cycles since its poll slice began (R181). There is no
brightness field (R182). -/
structure HostState where
  place   : HostPlace
  idle    : Nat
  spent   : Nat
  start   : Nat
  speed   : Nat
  density : Nat
  deriving DecidableEq, Repr

/-- The state of R180 the place belongs to. STANDBY begins when the power command is received (R184). -/
def HostPlace.mode : HostPlace → HostMode
  | .resetting            => .active
  | .issuing _ .loop _    => .active
  | .issuing _ .polls _   => .active
  | .issuing _ .standby _ => .standby
  | .slice _              => .active
  | .polling m            => m
  | .waiting              => .standby
  | .woken                => .standby

/-- The supervisor's state (R180). -/
def HostState.mode (h : HostState) : HostMode := h.place.mode

/-- ACTIVE is the initial state (R180), before the initialisation (R188); the animation values are in
no source (log 17). -/
def HostState.initial : HostState where
  place   := .resetting
  idle    := 0
  spent   := 0
  start   := Config.initialAnimation.1 % 192
  speed   := Config.initialAnimation.2.1
  density := Config.initialAnimation.2.2

/-- The host's code map: four distinct values (R183), and a gamma table as R131 says. A premise of
claims about the host, as `meetsRules` is of claims about the block. -/
abbrev hostMeetsRules (hp : HostParams) : Prop :=
  [hp.cmdPower, hp.cmdBright, hp.cmdSpeed, hp.cmdDensity].Nodup ∧ gammaMeetsRule hp.gamma

/-- What is free in a cycle: how the host uses its time, a word no command stands on, and the IR line
(R9). -/
structure HostChoice where
  /-- A host that is resetting the block goes on with it. -/
  holdReset : Bool
  /-- A host that may issue its next command does it now. -/
  acts      : Bool
  /-- The level of `cmd_word` in a cycle in which no command is offered; the spec is silent (log 31). -/
  idleWord  : CmdWord
  irIn      : Level
  deriving DecidableEq, Repr

/-- The CLEAR commands that clear `n` pixels: one, or several if `n >= 2^CNT_W` (R184). -/
def clearCommands (cw : CntWidth) (n : Nat) : List Instr :=
  let most := 2 ^ cw.bits - 1
  if n ≤ most then [.clear n]
  else List.replicate (n / most) (.clear most) ++ [.clear (n % most)]

/-- The host goes to `place`. -/
def goTo (place : HostPlace) (h : HostState) : HostState := { h with place := place, idle := 0 }

/-- One iteration of the loop begins (R180, R181): the frame of the present animation state. -/
def beginIteration (hp : HostParams) (h : HostState) : HostState :=
  goTo (.issuing (renderFrame hp.gamma h.start h.density hp.nPixels) .polls false) h

/-- The power command in ACTIVE (R184): the string is cleared and latched, then STANDBY waits. -/
def enterStandby (hp : HostParams) (cw : CntWidth) (h : HostState) : HostState :=
  goTo (.issuing (clearCommands cw hp.nPixels ++ [.latch]) .standby false) h

/-- A decoded command applied in ACTIVE (R182, R184), the slice going on but for the power command.
The brightness command has no effect on these variables (U10; log 16); a code that maps to no action is
ignored. With four distinct codes (R183) the order of the tests does not matter. -/
def applyCommand (hp : HostParams) (cw : CntWidth) (cmd : Byte) (h : HostState) : HostState :=
  if cmd = hp.cmdPower then enterStandby hp cw h
  else if cmd = hp.cmdBright then h
  else if cmd = hp.cmdSpeed then { h with speed := Config.nextSpeed h.speed }
  else if cmd = hp.cmdDensity then { h with density := Config.nextDensity h.density }
  else h

/-- What the host does when its commands are complete: the next part of its program. -/
def reachGoal (hp : HostParams) (goal : HostGoal) (h : HostState) : HostState :=
  match goal with
  | .loop    => beginIteration hp h
  | .polls   => goTo (.slice false) { h with start := advanceStart h.start h.speed, spent := 0 }
  | .standby => goTo .waiting h

/-- A poll has ended with `ok`, `cmd`: in ACTIVE a FAIL is discarded and a command applied (R181, R182);
in STANDBY only the power command is processed (R185, R186). Where in the iteration the host resumes when
it leaves STANDBY, R186 does not say: the model begins a new iteration with its frame. DESIGN CHOICE
(log 33). -/
def endPoll (hp : HostParams) (cw : CntWidth) (mode : HostMode) (ok : Bool) (cmd : Byte)
    (h : HostState) : HostState :=
  match mode with
  | .active  =>
    let h := goTo (.slice true) h
    if ok then applyCommand hp cw cmd h else h
  | .standby => if ok && cmd == hp.cmdPower then beginIteration hp h else goTo .waiting h

/-- A cycle passes in the poll slice (R181), polls included. -/
def passTime (h : HostState) : HostState :=
  match h.place with
  | .slice _ | .polling .active => { h with spent := h.spent + 1 }
  | .resetting | .issuing _ _ _ | .polling .standby | .waiting | .woken => h

/-- The first part of the host's cycle: it reads the block's outputs. Commands are complete, and the
response of a poll is there, when `cmd_ready = 1` (R219, R224); `wake` is seen by the waiting host only,
since it is not latched (R192, R224; log 28). -/
def hostObserve (hp : HostParams) (cw : CntWidth) (o : Outputs) (h : HostState) : HostState :=
  match h.place with
  | .issuing [] goal _ => if o.cmdReady then reachGoal hp goal h else h
  | .polling mode      => if o.cmdReady then endPoll hp cw mode o.rspOk o.rspCmd h else h
  | .waiting           => if o.wake then goTo .woken h else h
  | .resetting | .issuing (_ :: _) _ _ | .slice _ | .woken => h

/-- After `POLL_SLICE` cycles the poll slice ends, between two polls and not before its first poll has
ended (R180, R181; log 29): the next iteration begins. -/
def hostTurn (hp : HostParams) (h : HostState) : HostState :=
  match h.place with
  | .slice true => if hp.pollSlice ≤ h.spent then beginIteration hp h else h
  | .resetting | .issuing _ _ _ | .slice false | .polling _ | .waiting | .woken => h

/-- A command that puts colors on the line. -/
def transmits : Instr → Bool
  | .sendch _        => true
  | .wrcolor _ _ _ _ => true
  | .clear _         => true
  | .latch           => false
  | .irpoll          => false

/-- The longest delay before a poll with which every compliant lead mark is still measured long enough
(R222): the shortest lead mark, 8842 microseconds, less `LM_LO` ticks. -/
def maxPollDelay (p : Params) : Nat := 8842 * p.fClkHz / 1000000 - p.leadMark.lo * p.tickDiv

/-- The host may let no further ready cycle pass: the gap bound inside a frame (R187, R218), the poll
cadence in the slice and, counted from the edge before the `wake` pulse, in STANDBY (R181, R222). -/
def mustAct (p : Params) (h : HostState) : Bool :=
  match h.place with
  | .issuing (i :: _) _ inFrame => inFrame && transmits i && maxLatency p ≤ h.idle
  | .slice _                    => maxPollDelay p ≤ h.idle
  | .woken                      => maxPollDelay p ≤ h.idle + 1
  | .resetting | .issuing [] _ _ | .polling _ | .waiting => false

/-- The command the host issues next in its place, and the place after it. -/
def nextCommand (h : HostState) : Option (Instr × HostPlace) :=
  match h.place with
  | .issuing (i :: rest) goal inFrame => some (i, .issuing rest goal (inFrame || transmits i))
  | .slice _                          => some (.irpoll, .polling .active)
  | .woken                            => some (.irpoll, .polling .standby)
  | .resetting | .issuing [] _ _ | .polling _ | .waiting => none

/-- One cycle of the host: its next state and what it drives at the block's inputs. -/
structure HostCycle where
  host    : HostState
  rst     : Bool
  command : Option Instr
  deriving DecidableEq, Repr

/-- The last part of the host's cycle: it issues its next command, or lets the cycle pass. It offers a
command only in a cycle in which the block is ready, so the command fires there and then (R221;
log 30). -/
def hostIssue (p : Params) (c : HostChoice) (o : Outputs) (h : HostState) : HostCycle :=
  match nextCommand h with
  | none            => { host := h, rst := false, command := none }
  | some (i, place) =>
    if o.cmdReady = false then { host := h, rst := false, command := none }
    else if c.acts || mustAct p h then { host := goTo place h, rst := false, command := some i }
    else { host := { h with idle := h.idle + 1 }, rst := false, command := none }

/-- One cycle of the host: the initialisation holds `rst` for a cycle or more, then issues one LATCH
before the first frame (R188, R212 (1), (5)); after it the loop runs forever (R180). R212 (5) also lets
the host leave `dout` LOW for the latch time without a LATCH; that way is left out. DESIGN CHOICE
(log 32). -/
def hostCycle (hp : HostParams) (p : Params) (c : HostChoice) (o : Outputs) (h : HostState) :
    HostCycle :=
  if h.place = .resetting then
    { host := if c.holdReset then h else goTo (.issuing [.latch] .loop false) h
      rst := true, command := none }
  else hostIssue p c o (hostTurn hp (hostObserve hp p.cntW o (passTime h)))

end Sys2Proof.Machine
end

