-- ==== Sys2Proof/Machine/System.lean ====
section
/-! DEFINITION. The whole system (R4, R9): the host drives the block's inputs and reads its outputs, the
LED string sees the line; the IR line and the host's use of its time are free. -/

namespace Sys2Proof.Machine

/-- The three agents that have a state. The block's own `feed` is not used: its inputs come from the
host and the IR line, cycle by cycle. -/
structure System where
  host   : HostState
  block  : State
  string : LedString
  deriving DecidableEq, Repr

/-- The system at power-up: the block holds any values (U11), the string's state is unknown
(R212 (5)). -/
def System.powerUp (block : State) : System where
  host   := HostState.initial
  block  := block
  string := LedString.powerUp

/-- The levels at the block's input ports that a cycle of the host gives (R20). With no command offered
`cmd_word` is free (log 31). -/
def hostPins (t : HostCycle) (c : HostChoice) : Pins where
  rst      := t.rst
  cmdValid := t.command.isSome
  cmdWord  := match t.command with
    | some i => encode i
    | none   => c.idleWord
  irIn     := c.irIn

/-- One clock cycle of the system. -/
def systemCycle (hp : HostParams) (c : HostChoice) (y : System) :
    Host.Outcome System Fault Refusal :=
  let t := hostCycle hp y.block.params c y.block.outputs y.host
  let block := { y.block with pins := hostPins t c }
  match step block with
  | .next b    =>
    .next { host := t.host, block := b, string := observeBlock block.params y.string block }
  | .fault r   => .fault r
  | .refused r => .refused r

/-- The system over a list of free choices, one a cycle. -/
def runSystem (hp : HostParams) : List HostChoice → System → Host.Outcome System Fault Refusal
  | [], y      => .next y
  | c :: cs, y =>
    match systemCycle hp c y with
    | .next z    => runSystem hp cs z
    | .fault r   => .fault r
    | .refused r => .refused r

end Sys2Proof.Machine
end

