-- ==== Sys2Proof/Safety.lean ====
section
/-! DEFINITION. The terms claims are stated in: runs, the invariant of R43, register groups, the
waveforms of R81 to R84, the sample streams of R164. -/

namespace Sys2Proof.Machine

/-! ## Runs -/

/-- The state `n` cycles later. -/
def runCycles : Nat → State → Host.Outcome State Fault Refusal
  | 0, s => .next s
  | n + 1, s =>
    match step s with
    | .next t    => runCycles n t
    | .fault r   => .fault r
    | .refused r => .refused r

/-- The states of `n` cycles, the first of them `s`. -/
def trace : Nat → State → List State
  | 0, _ => []
  | n + 1, s =>
    match step s with
    | .next t => s :: trace n t
    | _       => [s]

/-- The levels at the ports in this cycle and the known ones after it. -/
def inputs (s : State) : List Pins := s.pins :: s.feed

/-- The environment's levels are known for `n` cycles, and none of them resets the block. -/
def resetFree (n : Nat) (s : State) : Bool :=
  decide (n ≤ (inputs s).length) && ((inputs s).take n).all (fun p => !p.rst)

/-- The instruction `i` is accepted in this cycle: it fires (R23) and the word decodes to it. -/
def accepts (i : Instr) (s : State) : Prop :=
  s.fire = true ∧ decode s.params.cntW s.pins.cmdWord = .ok i

/-! ## The invariant (R43) -/

/-- What holds in every state reachable from reset. (a) to (h) are the clauses of R43; the others
make it inductive and say that every register fits its width (R13, R26, R30, R32). -/
structure BlockInv (s : State) : Prop where
  rules     : meetsRules s.params
  /-- (a) -/
  oneUnit   : s.phase = .idle ∨ s.ist = .idle
  /-- (b) -/
  doutHigh  : s.dout = true ↔ s.phase = .high
  /-- (c) -/
  sending   : s.phase = .high ∨ s.phase = .low →
    1 ≤ s.nbits.toNat ∧ s.nbits.toNat ≤ 8 ∧ 1 ≤ s.cnt
  /-- (d), and the same during a LATCH. -/
  atRest    : s.phase = .idle ∨ s.phase = .latch → s.nbits = 0#4 ∧ s.nch = 0#2 ∧ s.ncol = 0
  latching  : s.phase = .latch → 1 ≤ s.cnt
  /-- (e) -/
  buffered  : s.nch.toNat ≤ channelsPerColor s.params - 1
  /-- (f) -/
  measuring : s.ist ≠ .idle →
    1 ≤ s.dur.toNat ∧ s.dur.toNat ≤ 254 ∧ s.nrx.toNat ≤ 32 ∧ (s.nrx = 32#6 → s.ist = .trailMark)
  /-- (g) -/
  noCount   : s.ist = .idle → s.dur = 0#8
  /-- (h) -/
  failZero  : s.rspOk = false → s.rspCmd = 0x00#8
  cntFits   : s.cnt ≤ maxCnt s.params
  /-- (f) for `tick`, and its width. -/
  tickFits  : s.tick ≤ s.params.tickDiv - 1
  ncolFits  : s.ncol < 2 ^ s.params.cntW.bits

/-! ## Groups of registers, to compare -/

/-- The registers only the PTX step writes (R100). -/
structure PtxRegs where
  dout   : Level
  phase  : Phase
  cnt    : Nat
  sr     : BitVec 8
  nbits  : BitVec 4
  chbuf0 : BitVec 8
  chbuf1 : BitVec 8
  chbuf2 : BitVec 8
  nch    : BitVec 2
  ncol   : Nat
  deriving DecidableEq, Repr

/-- The registers only the IRD step writes (R140). -/
structure IrdRegs where
  ist   : IrState
  tick  : Nat
  dur   : BitVec 8
  shreg : BitVec 32
  nrx   : BitVec 6
  deriving DecidableEq, Repr

/-- The response registers (R36). -/
structure RspRegs where
  rspValid : Bool
  rspOk    : Bool
  rspCmd   : BitVec 8
  deriving DecidableEq, Repr

/-- The PTX registers of a state. -/
def ptxRegs (s : State) : PtxRegs where
  dout   := s.dout
  phase  := s.phase
  cnt    := s.cnt
  sr     := s.sr
  nbits  := s.nbits
  chbuf0 := s.chbuf0
  chbuf1 := s.chbuf1
  chbuf2 := s.chbuf2
  nch    := s.nch
  ncol   := s.ncol

/-- The IRD registers of a state. -/
def irdRegs (s : State) : IrdRegs where
  ist   := s.ist
  tick  := s.tick
  dur   := s.dur
  shreg := s.shreg
  nrx   := s.nrx

/-- The response registers of a state. -/
def rspRegs (s : State) : RspRegs where
  rspValid := s.rspValid
  rspOk    := s.rspOk
  rspCmd   := s.rspCmd

/-- FAIL (R36, R87). -/
def RspRegs.fail : RspRegs where
  rspValid := true
  rspOk    := false
  rspCmd   := 0x00#8

/-- What a command does not touch in any case: the parameters, time, the ports, the wake registers. -/
def sameSurroundings (s t : State) : Prop :=
  t.params = s.params ∧ t.cycle = s.cycle ∧ t.pins = s.pins ∧ t.feed = s.feed ∧
    t.irPrev = s.irPrev ∧ t.wake = s.wake

/-! ## Transitions (R167) -/

/-- The transitions of `phase` that R167 lists; every other step keeps `phase`. -/
def phaseMoves (a b : Phase) : Bool :=
  a == b || match a, b with
  | .idle, .high  => true
  | .idle, .latch => true
  | .high, .low   => true
  | .low, .high   => true
  | .low, .idle   => true
  | .latch, .idle => true
  | _, _          => false

/-- The transitions of `ist` that R167 lists; every other step keeps `ist`. -/
def istMoves (a b : IrState) : Bool :=
  a == b || b == .idle || match a, b with
  | .idle, .leadMark       => true
  | .leadMark, .leadSpace  => true
  | .leadSpace, .bitMark   => true
  | .bitMark, .bitSpace    => true
  | .bitSpace, .bitMark    => true
  | .bitSpace, .trailMark  => true
  | _, _                   => false

/-! ## Waveforms (R16, R81 to R84) -/

/-- `H(b)` HIGH cycles and `low` LOW cycles. -/
def pulse (p : Params) (b : Bool) (low : Nat) : List Level :=
  List.replicate (highCycles p b) true ++ List.replicate low false

/-- `BIT(b)`: `H{H(b)} L{CYC-H(b)}` (R81). -/
def bitWave (p : Params) (b : Bool) : List Level := pulse p b (p.cyc - highCycles p b)

/-- The bits of a channel value, most significant first (R52). -/
def lineBits (v : Byte) : List Bool :=
  [v[7], v[6], v[5], v[4], v[3], v[2], v[1],
    v[0]]

/-- One channel on the line: eight bits and the `GAP` (R82). -/
def channelWave (p : Params) (v : Byte) : List Level :=
  (lineBits v).flatMap (bitWave p) ++ List.replicate p.gap false

/-- Channels back to back (R83). -/
def channelsWave (p : Params) (vs : List Byte) : List Level := vs.flatMap (channelWave p)

/-- The block accepts a command in this cycle and then puts the waveform `w` on the line: `dout` has
the levels of `w` in the cycles that follow, `cmd_ready` is 0 in each of them, and in the cycle after
them the block is ready and `dout` is LOW (R109, R110). -/
def sendsWave (s : State) (w : List Level) : Prop :=
  ∃ s1, step s = .next s1 ∧
    (trace w.length s1).map State.dout = w ∧
    (trace w.length s1).map State.cmdReady = List.replicate w.length false ∧
    ∃ t, runCycles w.length s1 = .next t ∧ t.cmdReady = true ∧ t.dout = false

/-- A channel and the LOW cycles until the next one: none inside a command; after a command's last
channel the idle cycle of the next fire and the latency `L` (R111). -/
def channelThenLow (p : Params) (channel : Byte × Nat) : List Level :=
  channelWave p channel.1 ++ List.replicate channel.2 false

/-- A frame on the line (R84): whole colors, pixel 0 first, each channel followed by its LOW cycles;
`rest` more LOW cycles (R111), then those of a LATCH. -/
def frameWave (p : Params) (colors : List (List (Byte × Nat))) (rest : Nat) : List Level :=
  colors.flatten.flatMap (channelThenLow p) ++ List.replicate (rest + p.latchCyc) false

/-- A string that has latched and received nothing since: the start of a frame. -/
def frameStart (shown : List (Option (List Byte))) : LedString where
  line    := .latched
  bits    := []
  corrupt := false
  shown   := shown

/-! ## Sample streams (R164) -/

/-- Samples taken one after another; nothing is sampled once the decode has ended (R154). -/
def sampleAll (xs : List Level) (s : State) : State :=
  xs.foldl (fun t x => if t.ist = .idle then t else takeSample x t) s

/-- A poll on the samples `s_0, s_1, ...` (R141): the first is the input in the fire cycle. -/
def pollOn (s : State) : List Level → State
  | []      => s
  | x :: xs => if x then State.respond false 0x00#8 s else sampleAll xs (beginDecode s)

/-- The samples of the first `k + 1` sample instants of a poll that fires in this cycle: the input
levels in the cycles `t + j*TICK_DIV`, `j` from 0 to `k` (R144, D14). -/
def tickSamples (k : Nat) (s : State) : List Level :=
  (List.range (k + 1)).map (fun j => ((inputs s).getD (j * s.params.tickDiv) s.pins).irIn)

/-- The bit a space of `n` ticks stands for (R153). -/
def spaceBit (p : Params) (n : Nat) : Option Bool :=
  if p.zeroSpace.lo ≤ n ∧ n ≤ p.zeroSpace.hi then some false
  else if p.oneSpace.lo ≤ n ∧ n ≤ p.oneSpace.hi then some true
  else none

/-- The durations of a received frame in ticks (R85): lead mark, lead space, the mark and space of
each data bit, trail mark. -/
structure Durations where
  leadMark  : Nat
  leadSpace : Nat
  bits      : List (Nat × Nat)
  trailMark : Nat
  deriving DecidableEq, Repr

/-- The samples of a frame: its runs in order, and the HIGH sample that ends the trail mark (R164). -/
def Durations.samples (d : Durations) : List Level :=
  List.replicate d.leadMark false ++ List.replicate d.leadSpace true ++
    d.bits.flatMap (fun b => List.replicate b.1 false ++ List.replicate b.2 true) ++
    List.replicate d.trailMark false ++ [true]

/-- A count inside a window. -/
def inWindow (w : Window) (n : Nat) : Prop := w.lo ≤ n ∧ n ≤ w.hi

/-- Every duration is inside its window, and there are 32 data bits (R164). -/
def Durations.inWindows (p : Params) (d : Durations) : Prop :=
  inWindow p.leadMark d.leadMark ∧ inWindow p.leadSpace d.leadSpace ∧ d.bits.length = 32 ∧
    (∀ b ∈ d.bits, inWindow p.bitMark b.1 ∧ (spaceBit p b.2).isSome) ∧ inWindow p.bitMark d.trailMark

/-- The 32-bit number `D` whose bit `i` is data bit `i` (R86, R164). -/
def Durations.data (p : Params) (d : Durations) : BitVec 32 :=
  BitVec.ofNat 32
    (d.bits.foldr (fun b acc => 2 * acc + ((spaceBit p b.2).getD false).toNat) 0)

/-- The condition on `D` for success (R157, R158, R164). -/
def dataAccepted (p : Params) (d : BitVec 32) : Prop :=
  (d.extractLsb' 16 8).toNat + (d.extractLsb' 24 8).toNat = 255 ∧
    (if (d.extractLsb' 0 8).toNat + (d.extractLsb' 8 8).toNat = 255 then
        (d.extractLsb' 0 8).toNat
      else (d.extractLsb' 8 8).toNat * 256 + (d.extractLsb' 0 8).toNat) = p.irAddr.toNat

end Sys2Proof.Machine
end

