-- ==== Sys2Proof/Certificates/Slice0/Obligations.lean ====
section
/-! DEFINITION. The statements about NCIO, made from the numbered rules of spec/. -/

open Sys2Proof Sys2Proof.Machine

/-! ## The command word -/

/-- R70 to R76: the word of a well-formed command decodes back to it, every operand at every value. -/
def Obligations.EncodedCommandDecodesBack : Prop :=
  ∀ (cw : CntWidth) (i : Instr), wellFormed cw i = true → decode cw (encode i) = .ok i

/-- R71, R77: a word that decodes to a command differs from the command's own word only in bits the
row ignores (the encoder writes 0 there, log 21). -/
def Obligations.DecodedCommandReencodesToUsedBits : Prop :=
  ∀ (cw : CntWidth) (w : CmdWord) (i : Instr),
    decode cw w = .ok i → encode i = w &&& usedBits cw i

/-- R71, R77: the ignored bits of `arg` may hold anything and change nothing. -/
def Obligations.IgnoredBitsDoNotChangeDecoding : Prop :=
  ∀ (cw : CntWidth) (w w' : CmdWord) (i : Instr),
    decode cw w = .ok i → w &&& usedBits cw i = w' &&& usedBits cw i → decode cw w' = .ok i

/-- R74, R78: whatever the word, the command it decodes to is well formed. -/
def Obligations.DecodedCommandIsWellFormed : Prop :=
  ∀ (cw : CntWidth) (w : CmdWord) (i : Instr), decode cw w = .ok i → wellFormed cw i = true

/-- R71, R77, R88: a word is rejected exactly when its `op` is 0x0, 0x5, 0x6, 0x7 or 0x9 to 0xF, and
the rejection names that `op`. -/
def Obligations.ReservedCodesAreTheRest : Prop :=
  ∀ (cw : CntWidth) (w : CmdWord),
    let op := w.toNat / 2 ^ 32
    (decode cw w = .error (.reserved (BitVec.ofNat 4 op)) ↔
      op = 0 ∨ op = 5 ∨ op = 6 ∨ op = 7 ∨ 9 ≤ op) ∧
    (∀ r, decode cw w = .error r → r = .reserved (BitVec.ofNat 4 op))

/-- R72 to R76: words written out from the rules' encodings (95_test_vectors.md V13, V18, V21, V23,
V26, V27, P3) decode to the commands they stand for. -/
def Obligations.TableWordsDecode : Prop :=
  decode .w8 0x1000000A5#36 = .ok (.sendch 0xA5#8) ∧
  decode .w8 0x1DEADBEA5#36 = .ok (.sendch 0xA5#8) ∧
  decode .w8 0x210203040#36 = .ok (.wrcolor 0x10#8 0x20#8 0x30#8 0x40#8) ∧
  decode .w8 0x300000102#36 = .ok (.clear 2) ∧
  decode .w16 0x300000102#36 = .ok (.clear 0x102) ∧
  decode .w8 0x400000000#36 = .ok .latch ∧
  decode .w8 0x800000000#36 = .ok .irpoll

/-! ## One clock cycle -/

/-- R21, R23, R36, R37: in the cycle in which a command is accepted, the step is the command's
meaning at the state with the response pulse cleared, followed by the wake step and the passing of
time (`endCycle`). -/
def Obligations.StepRunsTheAcceptedCommand : Prop :=
  ∀ (i : Instr) (s t : State), meetsRules s.params → accepts i s →
    exec i s.clearPulse = .next t → step s = .next (endCycle t)

/-- R21: what the step adds after the units: `wake` and `ir_prev` of R37, the next input levels
(the head of the feed, or a free value at its end: the model's choice, log 1, log 2), one more cycle
(log 4), and nothing else. -/
def Obligations.EndOfCycleWritesWakeAndTime : Prop :=
  ∀ s : State, ∃ pins feed,
    endCycle s =
      { s with
        wake := s.pins.irIn != s.irPrev, irPrev := s.pins.irIn, cycle := s.cycle + 1,
        pins := pins, feed := feed } ∧
    (∀ p ps, s.feed = p :: ps → pins = p ∧ feed = ps) ∧
    (s.feed = [] → pins = Config.freePins (s.cycle + 1) ∧ feed = [])

/-- R77: a reserved code is accepted like any other, changes no register of PTX or IRD, produces no
response and leaves the block ready. That it runs rather than being refused is the model's choice
(log 9). -/
def Obligations.ReservedCommandIsANoOperation : Prop :=
  ∀ (s : State) (r : Rejected), meetsRules s.params → s.fire = true →
    decode s.params.cntW s.pins.cmdWord = .error r →
    ∃ t, step s = .next t ∧ ptxRegs t = ptxRegs s ∧ irdRegs t = irdRegs s ∧
      rspRegs t = { rspRegs s with rspValid := false } ∧ t.cmdReady = true

/-- R210, R42: a step with `rst = 1` ignores every other input and sets every register to its reset
value. -/
def Obligations.ResetStepSetsEveryRegister : Prop :=
  ∀ s : State, meetsRules s.params → s.pins.rst = true →
    ∃ t, step s = .next t ∧ t.params = s.params ∧
      t.dout = false ∧ t.phase = .idle ∧ t.cnt = 0 ∧ t.sr = 0x00#8 ∧ t.nbits = 0#4 ∧
      t.chbuf0 = 0x00#8 ∧ t.chbuf1 = 0x00#8 ∧ t.chbuf2 = 0x00#8 ∧ t.nch = 0#2 ∧ t.ncol = 0 ∧
      t.irPrev = true ∧
      t.ist = .idle ∧ t.tick = 0 ∧ t.dur = 0#8 ∧ t.shreg = 0x00000000#32 ∧ t.nrx = 0#6 ∧
      t.rspValid = false ∧ t.rspOk = false ∧ t.rspCmd = 0x00#8 ∧ t.wake = false

/-- R211: in the first cycle after a reset cycle the block is ready, `dout` and the response are 0,
`wake = 0` and `ir_prev = 1`; with `ir_in` LOW in that cycle (and no further reset) `wake` pulses in
the second. The host's supervisor starts in ACTIVE. -/
def Obligations.BlockIsReadyAfterReset : Prop :=
  ∀ s : State, meetsRules s.params → s.pins.rst = true →
    HostState.initial.mode = .active ∧
    ∃ t, step s = .next t ∧ t.phase = .idle ∧ t.ist = .idle ∧ t.cmdReady = true ∧ t.dout = false ∧
      rspRegs t = { rspValid := false, rspOk := false, rspCmd := 0x00#8 } ∧
      t.wake = false ∧ t.irPrev = true ∧
      (t.pins.irIn = false → t.pins.rst = false → ∃ u, step t = .next u ∧ u.wake = true)

/-- R23, R100, R140, R221: a block that is not ready, or is being reset, accepts nothing and remembers
nothing (the meaning answers the state unchanged: the model's form, log 8); and while a unit is busy the
command port has no effect on the step. -/
def Obligations.BusyBlockIgnoresCommands : Prop :=
  (∀ (i : Instr) (s : State), s.cmdReady = false ∨ s.pins.rst = true → exec i s = .next s) ∧
  ∀ (s : State) (valid : Bool) (word : CmdWord), s.cmdReady = false →
    step { s with pins := { s.pins with cmdValid := valid, cmdWord := word } } = step s

/-- R12, R39, R190: the block never stops: every state of a block whose parameters meet the rules has
a next state, whatever the inputs, and its parameters stay as they are. A record that breaks the rules
is refused (log 5), which is no part of this statement. -/
def Obligations.BlockNeverStops : Prop :=
  ∀ s : State, meetsRules s.params → ∃ t, step s = .next t ∧ t.params = s.params

/-- R37: every step without reset, whatever the other registers hold, `wake <- (ir_in != ir_prev)`
and `ir_prev <- ir_in`; so `wake` is 1 exactly in the cycle after one whose input differs from the
input of the cycle before it (from 1 in the first cycle after reset). -/
def Obligations.WakePulsesOnEveryEdge : Prop :=
  (∀ s : State, meetsRules s.params → s.pins.rst = false →
    ∃ t, step s = .next t ∧ t.irPrev = s.pins.irIn ∧ (t.wake = true ↔ s.pins.irIn ≠ s.irPrev)) ∧
  (∀ s t u : State, s.pins.rst = false → t.pins.rst = false →
    step s = .next t → step t = .next u → (u.wake = true ↔ t.pins.irIn ≠ s.pins.irIn)) ∧
  (∀ s t u : State, s.pins.rst = true → t.pins.rst = false →
    step s = .next t → step t = .next u → (u.wake = true ↔ t.pins.irIn ≠ true))

/-- R36: `rsp_valid` is 1 after a step exactly when the step ends an IRPOLL (a decode that returns to
IDLE, or a poll of an idle line), and only then are `rsp_ok`, `rsp_cmd` written; a success gives the
received `cmd1`, a FAIL gives 0. -/
def Obligations.ResponsePulsesExactlyWhenAPollEnds : Prop :=
  ∀ s t : State, s.pins.rst = false → step s = .next t →
    (t.rspValid = true ↔
      (s.ist ≠ .idle ∧ t.ist = .idle) ∨ (accepts .irpoll s ∧ s.pins.irIn = true)) ∧
    (t.rspValid = false → t.rspOk = s.rspOk ∧ t.rspCmd = s.rspCmd) ∧
    (t.rspValid = true → t.rspCmd = if t.rspOk then s.shreg.extractLsb' 16 8 else 0x00#8)

/-! ## Invariants and whole-machine rules -/

/-- R43: the invariant is kept by every step, from every state that meets it. -/
def Obligations.EveryStepKeepsTheInvariant : Prop :=
  ∀ s t : State, BlockInv s → step s = .next t → BlockInv t

/-- R42, R43: the invariant holds at `State.reset` (its parameters: the model's choice, log 3) and
after every reset step, whatever the registers held before. -/
def Obligations.ResetEstablishesTheInvariant : Prop :=
  BlockInv State.reset ∧
  ∀ s t : State, meetsRules s.params → s.pins.rst = true → step s = .next t → BlockInv t

/-- R24, R109: `dout` is LOW in every cycle in which PTX is idle or latching, and in every cycle of an
IRPOLL. -/
def Obligations.LineIsLowUnlessSending : Prop :=
  ∀ s : State, BlockInv s → s.phase = .idle ∨ s.phase = .latch ∨ s.ist ≠ .idle → s.dout = false

/-- R13, R26, R30, R32: in a state that meets the invariant every counter of parametric width fits
its width, so no register write loses a bit (log 7). -/
def Obligations.CountersFitTheirWidths : Prop :=
  ∀ s : State, BlockInv s →
    s.cnt < 2 ^ cntCycWidth s.params ∧ s.tick < 2 ^ tickWidth s.params ∧
      s.ncol < 2 ^ s.params.cntW.bits

/-- R167: without reset, `phase` and `ist` move only along the listed transitions. -/
def Obligations.UnitsMoveOnlyAlongTheListedTransitions : Prop :=
  ∀ s t : State, s.pins.rst = false → step s = .next t →
    phaseMoves s.phase t.phase = true ∧ istMoves s.ist t.ist = true

/-- R100, R116, R140: in a cycle in which PTX is idle and no transmitting command and no LATCH is
accepted, no PTX register changes; in a cycle in which IRD is idle and no IRPOLL is accepted, no IRD
register changes and no response is given. -/
def Obligations.IdleUnitsStayUntilTheirCommand : Prop :=
  ∀ s : State, meetsRules s.params → s.pins.rst = false →
    (s.phase = .idle → (∀ i, accepts i s → i = .irpoll) →
      ∃ t, step s = .next t ∧ ptxRegs t = ptxRegs s) ∧
    (s.ist = .idle → ¬ accepts .irpoll s →
      ∃ t, step s = .next t ∧ irdRegs t = irdRegs s ∧
        rspRegs t = { rspRegs s with rspValid := false })

/-- R100, R140: a command touches only its own unit: never the parameters, time, the ports or the
wake registers; SENDCH, WRCOLOR, CLEAR and LATCH no IRD and no response register; IRPOLL no PTX
register; SENDCH leaves `chbuf`; LATCH leaves every PTX register but `phase` and `cnt`. -/
def Obligations.CommandsTouchOnlyTheirUnit : Prop :=
  ∀ (i : Instr) (s t : State), exec i s = .next t →
    sameSurroundings s t ∧
    (i ≠ .irpoll → irdRegs t = irdRegs s ∧ rspRegs t = rspRegs s) ∧
    (i = .irpoll → ptxRegs t = ptxRegs s) ∧
    (∀ v, i = .sendch v → t.chbuf0 = s.chbuf0 ∧ t.chbuf1 = s.chbuf1 ∧ t.chbuf2 = s.chbuf2) ∧
    (i = .latch → ptxRegs t = { ptxRegs s with phase := t.phase, cnt := t.cnt })

/-! ## What each command writes in the cycle it fires -/

/-- R101, R102: SENDCH starts the channel: bit 7 goes on the line, nothing is buffered. -/
def Obligations.SendchStartsItsChannel : Prop :=
  ∀ (value : Byte) (s : State), s.canAccept = true →
    exec (.sendch value) s = .next
      { s with
        sr := value, nbits := 8#4, phase := .high, dout := true,
        cnt := if value[7] then s.params.h1 else s.params.h0,
        nch := 0#2, ncol := 0 }

/-- R101, R103: WRCOLOR starts the first channel of the configured order and buffers the others. -/
def Obligations.WrcolorStartsItsColor : Prop :=
  ∀ (r g b w : Byte) (s : State), s.canAccept = true →
    (s.params.order = .grb → exec (.wrcolor r g b w) s = .next
      { s with
        sr := g, nbits := 8#4, phase := .high, dout := true,
        cnt := if g[7] then s.params.h1 else s.params.h0,
        chbuf0 := r, chbuf1 := b, chbuf2 := 0x00#8, nch := 2#2, ncol := 0 }) ∧
    (s.params.order = .rgb → exec (.wrcolor r g b w) s = .next
      { s with
        sr := r, nbits := 8#4, phase := .high, dout := true,
        cnt := if r[7] then s.params.h1 else s.params.h0,
        chbuf0 := g, chbuf1 := b, chbuf2 := 0x00#8, nch := 2#2, ncol := 0 }) ∧
    (s.params.order = .rgbw → exec (.wrcolor r g b w) s = .next
      { s with
        sr := r, nbits := 8#4, phase := .high, dout := true,
        cnt := if r[7] then s.params.h1 else s.params.h0,
        chbuf0 := g, chbuf1 := b, chbuf2 := w, nch := 3#2, ncol := 0 })

/-- R101, R104: CLEAR with `n` not 0 starts a zero color with `n - 1` to follow; CLEAR 0 changes no
register. -/
def Obligations.ClearStartsItsZeroColors : Prop :=
  ∀ (n : Nat) (s : State), s.canAccept = true →
    (n ≠ 0 → exec (.clear n) s = .next
      { s with
        sr := 0x00#8, nbits := 8#4, phase := .high, dout := true, cnt := s.params.h0,
        chbuf0 := 0x00#8, chbuf1 := 0x00#8, chbuf2 := 0x00#8,
        nch := if s.params.order = .rgbw then 3#2 else 2#2, ncol := n - 1 }) ∧
    (n = 0 → exec (.clear n) s = .next s)

/-- R108: LATCH enters its wait. -/
def Obligations.LatchEntersItsWait : Prop :=
  ∀ s : State, s.canAccept = true →
    exec .latch s = .next { s with phase := .latch, cnt := s.params.latchCyc }

/-- R141, R142, R143: IRPOLL starts a decode when the input is LOW; when it is HIGH the poll ends at
once with FAIL and the decoder stays idle. -/
def Obligations.IrpollStartsADecodeOrFails : Prop :=
  ∀ s : State, s.canAccept = true →
    (s.pins.irIn = false → exec .irpoll s = .next
      { s with
        ist := .leadMark, dur := 1#8, tick := s.params.tickDiv - 1, shreg := 0x00000000#32,
        nrx := 0#6 }) ∧
    (s.pins.irIn = true → exec .irpoll s = .next
      { s with rspValid := true, rspOk := false, rspCmd := 0x00#8 })

/-- R143: a poll of an idle line ends at once with FAIL, no other register of the units changes, and
the block is ready in the next cycle. -/
def Obligations.PollOfAnIdleLineFailsAtOnce : Prop :=
  ∀ s : State, meetsRules s.params → accepts .irpoll s → s.pins.irIn = true →
    ∃ t, step s = .next t ∧ rspRegs t = RspRegs.fail ∧ ptxRegs t = ptxRegs s ∧
      irdRegs t = irdRegs s ∧ t.cmdReady = true

/-! ## The PTX engine -/

/-- R105: the HIGH phase counts down, then the line falls for the rest of the bit cycle, longer by
`GAP` after the last bit of a channel. -/
def Obligations.HighPhaseCountsThenFalls : Prop :=
  ∀ s : State, meetsRules s.params → s.pins.rst = false → s.phase = .high →
    ∃ t, step s = .next t ∧
      ptxRegs t =
        if 1 < s.cnt then { ptxRegs s with cnt := s.cnt - 1 }
        else
          { ptxRegs s with
            dout := false, phase := .low,
            cnt := s.params.cyc - (if s.sr[7] then s.params.h1 else s.params.h0) +
              (if s.nbits = 1#4 then s.params.gap else 0) }

/-- R106: the LOW phase counts down, then the next bit of the channel goes HIGH. -/
def Obligations.LowPhaseCountsThenNextBit : Prop :=
  ∀ s : State, meetsRules s.params → s.pins.rst = false → s.phase = .low →
    (1 < s.cnt → ∃ t, step s = .next t ∧ ptxRegs t = { ptxRegs s with cnt := s.cnt - 1 }) ∧
    (s.cnt ≤ 1 → 1 < s.nbits.toNat → ∃ t, step s = .next t ∧
      ptxRegs t =
        { ptxRegs s with
          sr := s.sr <<< 1, nbits := s.nbits - 1#4, phase := .high, dout := true,
          cnt := if s.sr[6] then s.params.h1 else s.params.h0 })

/-- R107: at the end of a channel the next buffered channel starts, else the next zero color of a
CLEAR, else the command is complete. -/
def Obligations.ChannelEndGoesOnOrCompletes : Prop :=
  ∀ s : State, meetsRules s.params → s.pins.rst = false → s.phase = .low → s.cnt ≤ 1 →
    s.nbits = 1#4 →
    (s.nch ≠ 0#2 → ∃ t, step s = .next t ∧
      ptxRegs t =
        { ptxRegs s with
          sr := s.chbuf0, nbits := 8#4, phase := .high, dout := true,
          cnt := if s.chbuf0[7] then s.params.h1 else s.params.h0,
          chbuf0 := s.chbuf1, chbuf1 := s.chbuf2, chbuf2 := 0x00#8, nch := s.nch - 1#2 }) ∧
    (s.nch = 0#2 → s.ncol ≠ 0 → ∃ t, step s = .next t ∧
      ptxRegs t =
        { ptxRegs s with
          sr := 0x00#8, nbits := 8#4, phase := .high, dout := true, cnt := s.params.h0,
          chbuf0 := 0x00#8, chbuf1 := 0x00#8, chbuf2 := 0x00#8,
          nch := if s.params.order = .rgbw then 3#2 else 2#2, ncol := s.ncol - 1 }) ∧
    (s.nch = 0#2 → s.ncol = 0 → ∃ t, step s = .next t ∧
      ptxRegs t = { ptxRegs s with phase := .idle, nbits := 0#4 })

/-! ## The line -/

/-- R81, R82, R102, R110: SENDCH puts the waveform of its channel on the line and is busy for exactly
`8*CYC + GAP` cycles. -/
def Obligations.SendchSendsItsChannelWaveform : Prop :=
  ∀ (v : Byte) (s : State), BlockInv s → accepts (.sendch v) s →
    resetFree (1 + channelCycles s.params) s = true →
    sendsWave s (channelWave s.params v) ∧
      (channelWave s.params v).length = channelCycles s.params

/-- R53, R83, R103, R110: WRCOLOR puts its `NCH` channels on the line in the configured order, back to
back, and is busy for exactly `NCH*(8*CYC + GAP)` cycles. -/
def Obligations.WrcolorSendsItsColorWaveform : Prop :=
  ∀ (r g b w : Byte) (s : State), BlockInv s → accepts (.wrcolor r g b w) s →
    resetFree (1 + colorCycles s.params) s = true →
    sendsWave s (channelsWave s.params (sentChannels s.params r g b w)) ∧
      (channelsWave s.params (sentChannels s.params r g b w)).length = colorCycles s.params

/-- R104, R110: CLEAR `n` puts `n * NCH` channels of value 0 on the line, back to back, and is busy
for exactly `n*NCH*(8*CYC + GAP)` cycles; CLEAR 0 for none. -/
def Obligations.ClearSendsItsZeroColors : Prop :=
  ∀ (n : Nat) (s : State), BlockInv s → accepts (.clear n) s →
    resetFree (1 + n * colorCycles s.params) s = true →
    sendsWave s
        (channelsWave s.params (List.replicate (n * channelsPerColor s.params) 0x00#8)) ∧
      (channelsWave s.params (List.replicate (n * channelsPerColor s.params) 0x00#8)).length =
        n * colorCycles s.params

/-- R108, R110: LATCH holds the line LOW and `cmd_ready = 0` for exactly `LATCH_CYC` cycles. -/
def Obligations.LatchHoldsTheLineLow : Prop :=
  ∀ s : State, BlockInv s → accepts .latch s → resetFree (1 + s.params.latchCyc) s = true →
    sendsWave s (List.replicate s.params.latchCyc false)

/-- R7, R111, R112, R118: every bit of the block has a HIGH phase the string receives as that bit, and
a bit cycle inside the limits, inside a channel, at its end, and up to a host latency of `L_MAX`; a
latency above `L_MAX` is outside them. -/
def Obligations.EveryBitIsInsideTheLineLimits : Prop :=
  ∀ p : Params, meetsRules p →
    (∀ b, receivedBit p (highCycles p b) = some b) ∧
    cycleInLimits p p.cyc = true ∧ cycleInLimits p (p.cyc + p.gap) = true ∧
    ∀ latency, cycleInLimits p (p.cyc + p.gap + 1 + latency) = true ↔ latency ≤ maxLatency p

/-- R84, R111, R118 to R120: a frame of whole colors, then a LATCH: the string shows the color of each
pixel as sent, pixel 0 first. Each channel may be followed by any number of LOW cycles up to the idle
cycle of the next fire and a latency of `L_MAX`: none inside a command (WRCOLOR, CLEAR of any count),
some after a command (colors made of SENDCH commands too); and the LATCH may come as late as the host
likes (`rest`). The device's latch time is longer than a bit cycle (R119), a premise. The model's choices
in it: the latch closes the last bit (DEDUCED from R19, log 14), and the string has no number of pixels
(DESIGN CHOICE, log 15), so that read as a claim about a string it carries U12's premise that the frame
holds no more colors than the string has pixels. -/
def Obligations.StringShowsTheFrameAsSent : Prop :=
  ∀ (p : Params) (colors : List (List (Byte × Nat))) (rest : Nat)
    (before : List (Option (List Byte))),
    meetsRules p → 9000 < p.tLatchNs → colors ≠ [] →
    (∀ c ∈ colors, c.length = channelsPerColor p ∧ ∀ x ∈ c, x.2 ≤ 1 + maxLatency p) →
    observeAll p (frameStart before) (frameWave p colors rest) =
        frameStart (colors.map (fun c => some (c.map Prod.fst))) ∧
      (observeAll p (frameStart before) (frameWave p colors rest)).display p =
        colors.map (fun c => some (c.map Prod.fst))

/-- R118, R119, R121, R218: what corrupts a frame. A transmitting command that comes later than `L_MAX`,
the line not yet LOW for the latch time, leaves it corrupt. A HIGH run of a length that is neither bit's
does as it ends: in the cycle after it the string is corrupt, or it has latched in that cycle; nothing is
known of any pixel either way. -/
def Obligations.LineViolationsCorruptTheFrame : Prop :=
  (∀ (p : Params) (vs : List Byte) (v : Byte) (latency : Nat) (before : List (Option (List Byte))),
    meetsRules p → 9000 < p.tLatchNs → maxLatency p < latency →
    isLatch p (p.cyc - highCycles p v[0] + p.gap + 1 + latency) = false →
    (observeAll p (frameStart before)
      (channelsWave p (vs ++ [v]) ++ List.replicate (1 + latency) false ++ [true])).corrupt = true) ∧
  ∀ (p : Params) (w : LedString) (n : Nat), w.line = .high n → receivedBit p n = none →
    ((observe p w false).corrupt = true ∨ (observe p w false).line = .latched) ∧
      (observe p w false).shown = [] ∧ (observe p w false).display p = []

/-- R213, R121, for a block and string that meet in any state. A reset in the middle of a transmission
forces `dout` LOW and forgets the rest of the command; the string's frame is corrupt and nothing is
known of any pixel. A corrupt frame stays corrupt until a latch, and after that nothing is known of any
pixel until another latch ends a frame that is not corrupt. That a reset in a transmission's last cycle
counts as one in its middle is the model's choice (log 27). -/
def Obligations.ResetInATransmissionCorruptsTheFrame : Prop :=
  (∀ (s : State) (w : LedString), meetsRules s.params → s.pins.rst = true →
    s.phase = .high ∨ s.phase = .low →
    (∃ t, step s = .next t ∧ t.dout = false ∧ t.phase = .idle ∧ t.nbits = 0#4 ∧ t.nch = 0#2 ∧
      t.ncol = 0) ∧
    (observeBlock s.params w s).corrupt = true ∧ (observeBlock s.params w s).shown = [] ∧
    (observeBlock s.params w s).display s.params = []) ∧
  (∀ (p : Params) (w : LedString) (x : Level), w.corrupt = true →
    (observe p w x).corrupt = true ∨ (observe p w x).line = .latched ∧ (observe p w x).shown = []) ∧
  ∀ (p : Params) (w : LedString) (x : Level), w.shown = [] →
    w.display p = [] ∧
      ((observe p w x).shown = [] ∨ w.corrupt = false ∧ (observe p w x).line = .latched)

/-! ## The IRD engine -/

/-- R144: between samples the prescaler counts down and nothing else of IRD changes; at 0 it is
loaded again and the sample is the input of this cycle. -/
def Obligations.PrescalerTakesASampleEveryTick : Prop :=
  ∀ s : State, meetsRules s.params → s.pins.rst = false → s.ist ≠ .idle →
    (s.tick ≠ 0 → ∃ t, step s = .next t ∧ irdRegs t = { irdRegs s with tick := s.tick - 1 } ∧
      rspRegs t = { rspRegs s with rspValid := false }) ∧
    (s.tick = 0 → ∃ t, step s = .next t ∧
      irdRegs t =
        irdRegs (takeSample s.pins.irIn { s with tick := s.params.tickDiv - 1, rspValid := false }) ∧
      rspRegs t =
        rspRegs (takeSample s.pins.irIn { s with tick := s.params.tickDiv - 1, rspValid := false }))

/-- R145, R147: a sample at the level of the state counts, unless the count is at the upper limit of
the state's window: then the decode aborts. -/
def Obligations.IntervalCountsUpToItsLimit : Prop :=
  ∀ (s : State) (hi : Nat) (x : Level),
    (s.ist, x, hi) ∈
      [(.leadMark, false, s.params.leadMark.hi), (.leadSpace, true, s.params.leadSpace.hi),
        (.bitMark, false, s.params.bitMark.hi), (.bitSpace, true, s.params.oneSpace.hi),
        (.trailMark, false, s.params.bitMark.hi)] →
    (hi ≤ s.dur.toNat → takeSample x s = abortDecode s) ∧
    (s.dur.toNat < hi → takeSample x s = { s with dur := s.dur + 1#8 })

/-- R149, R150, R151, R152: a lead mark, lead space or bit mark that ends below its lower limit
aborts, and otherwise enters the next state with the count 1. -/
def Obligations.IntervalEndsIntoTheNextState : Prop :=
  ∀ (s : State) (lo : Nat) (x : Level) (n : IrState),
    (s.ist, x, lo, n) ∈
      [(.leadMark, true, s.params.leadMark.lo, .leadSpace),
        (.leadSpace, false, s.params.leadSpace.lo, .bitMark),
        (.bitMark, true, s.params.bitMark.lo, .bitSpace)] →
    (s.dur.toNat < lo → takeSample x s = abortDecode s) ∧
    (lo ≤ s.dur.toNat → takeSample x s = { s with ist := n, dur := 1#8 })

/-- R153: the length of a bit space gives the bit, which enters `shreg` at bit 31; outside both
windows the decode aborts; after the 32nd bit comes the trail mark. -/
def Obligations.BitSpaceGivesTheBit : Prop :=
  ∀ s : State, s.ist = .bitSpace →
    (spaceBit s.params s.dur.toNat = none → takeSample false s = abortDecode s) ∧
    (∀ b, spaceBit s.params s.dur.toNat = some b →
      takeSample false s =
        { s with
          shreg := (if b then 0x80000000#32 else 0#32) ||| s.shreg >>> 1, nrx := s.nrx + 1#6,
          dur := 1#8, ist := if s.nrx + 1#6 = 32#6 then .trailMark else .bitMark })

/-- R154, R156 to R159: the end of the trail mark ends the decode: FAIL when it was too short, else
the verdict on the frame, `cmd1` as the result of a success. -/
def Obligations.TrailMarkEndsTheDecode : Prop :=
  ∀ s : State, s.ist = .trailMark →
    (s.dur.toNat < s.params.bitMark.lo → takeSample true s = abortDecode s) ∧
    (s.params.bitMark.lo ≤ s.dur.toNat → dataAccepted s.params s.shreg →
      takeSample true s =
        { s with
          ist := .idle, dur := 0#8, rspValid := true, rspOk := true,
          rspCmd := s.shreg.extractLsb' 16 8 }) ∧
    (s.params.bitMark.lo ≤ s.dur.toNat → ¬ dataAccepted s.params s.shreg →
      takeSample true s = abortDecode s)

/-- R155: ABORT returns to IDLE with FAIL; `tick`, `shreg`, `nrx` keep what they held (log 25). -/
def Obligations.AbortFailsAndReturnsToIdle : Prop :=
  ∀ s : State, abortDecode s =
    { s with ist := .idle, dur := 0#8, rspValid := true, rspOk := false, rspCmd := 0x00#8 }

/-! ## The frame's data -/

/-- R157, R166 (f): the unreduced sum of the command bytes is 255 exactly when the second is the
bitwise complement of the first. -/
def Obligations.CommandCheckIsTheComplement : Prop :=
  ∀ d : BitVec 32,
    commandChecks d = true ↔ d.extractLsb' 24 8 = ~~~ (d.extractLsb' 16 8)

/-- R158, R163 (b), R165: two address bytes that sum to 255 give the first byte as the address; any
other two give `addr2 << 8 | addr1`; so an 8-bit configured address `a` is matched by exactly two pairs
of address bytes: `a` and its complement, and `a` and 0x00 (the same pair when `a = 0xFF`). -/
def Obligations.AddressBytesSelectTheMode : Prop :=
  (∀ a1 a2 : Byte,
    (a1.toNat + a2.toNat = 255 → frameAddress a1 a2 = a1.setWidth 16) ∧
    (a1.toNat + a2.toNat ≠ 255 →
      frameAddress a1 a2 = (a2.setWidth 16 <<< 8) ||| a1.setWidth 16)) ∧
  ∀ a a1 a2 : Byte,
    frameAddress a1 a2 = a.setWidth 16 ↔ a1 = a ∧ (a2 = ~~~ a ∨ a2 = 0x00#8)

/-- R165: a configured address with a nonzero high byte whose two bytes sum to 255 is matched by no
frame. (With a zero high byte, 0x00FF, a frame does match: the second sentence of R165, V55.) -/
def Obligations.MixedAddressMatchesNoFrame : Prop :=
  ∀ (p : Params) (d : BitVec 32),
    255 < p.irAddr.toNat → p.irAddr.toNat / 256 + p.irAddr.toNat % 256 = 255 →
    frameAccepted p d = false

/-! ## Whole polls -/

/-- R142, R144, D14: the decoder of a poll that fires in cycle `t` sees exactly the input levels in the
cycles `t + j*TICK_DIV`: as long as the decode has not ended before sample `k`, the IRD and response
registers one cycle after that sample are those of the poll on the first `k + 1` samples. -/
def Obligations.PollSeesTheTickSamples : Prop :=
  ∀ (k : Nat) (s : State), BlockInv s → accepts .irpoll s → s.pins.irIn = false →
    resetFree (k * s.params.tickDiv + 1) s = true →
    (∀ j < k, (pollOn s.clearPulse (tickSamples j s)).ist ≠ .idle) →
    ∃ t, runCycles (k * s.params.tickDiv + 1) s = .next t ∧
      (irdRegs t).ist = (pollOn s.clearPulse (tickSamples k s)).ist ∧
      (irdRegs t).dur = (pollOn s.clearPulse (tickSamples k s)).dur ∧
      (irdRegs t).shreg = (pollOn s.clearPulse (tickSamples k s)).shreg ∧
      (irdRegs t).nrx = (pollOn s.clearPulse (tickSamples k s)).nrx ∧
      rspRegs t = rspRegs (pollOn s.clearPulse (tickSamples k s))

/-- R160: every poll ends: `rsp_valid = 1` in some cycle no later than `t + K_MAX*TICK_DIV + 1`. -/
def Obligations.EveryPollEndsInBoundedTime : Prop :=
  ∀ s : State, BlockInv s → accepts .irpoll s →
    resetFree (maxPollSamples s.params * s.params.tickDiv + 1) s = true →
    ∃ n, 1 ≤ n ∧ n ≤ maxPollSamples s.params * s.params.tickDiv + 1 ∧
      ∃ t, runCycles n s = .next t ∧ t.rspValid = true

/-- R164, from samples to result: a poll on the samples of a frame whose durations are all inside
their windows has ended once they are taken, with success and `D[23:16]` when the data passes both
checks, with FAIL otherwise. -/
def Obligations.FrameInWindowsIsDecoded : Prop :=
  ∀ (s : State) (d : Durations), meetsRules s.params → s.rspValid = false →
    d.inWindows s.params →
    let t := pollOn s d.samples
    t.ist = .idle ∧ t.rspValid = true ∧
    (dataAccepted s.params (d.data s.params) →
      t.rspOk = true ∧ t.rspCmd = (d.data s.params).extractLsb' 16 8) ∧
    (¬ dataAccepted s.params (d.data s.params) → t.rspOk = false ∧ t.rspCmd = 0x00#8)

/-- R164, from result to samples: a poll that reports success has seen the samples of a frame whose
durations are all inside their windows and whose data passes both checks. -/
def Obligations.OnlyFramesInWindowsSucceed : Prop :=
  ∀ (s : State) (xs : List Level), meetsRules s.params → s.rspValid = false →
    (pollOn s xs).rspValid = true → (pollOn s xs).rspOk = true →
    ∃ (d : Durations) (rest : List Level), xs = d.samples ++ rest ∧ d.inWindows s.params ∧
      dataAccepted s.params (d.data s.params) ∧
      (pollOn s xs).rspCmd = (d.data s.params).extractLsb' 16 8

/-- R161: nothing of an earlier poll affects a later one: two blocks with the same parameters that
poll the same asserted samples have the same IRD registers, whatever their registers held before, and
the same response once the poll has ended. -/
def Obligations.PollForgetsEarlierPolls : Prop :=
  ∀ (s t : State) (xs : List Level), t.params = s.params → s.rspValid = false →
    t.rspValid = false →
    irdRegs (pollOn s (false :: xs)) = irdRegs (pollOn t (false :: xs)) ∧
      (pollOn s (false :: xs)).rspValid = (pollOn t (false :: xs)).rspValid ∧
      ((pollOn s (false :: xs)).rspValid = true →
        rspRegs (pollOn s (false :: xs)) = rspRegs (pollOn t (false :: xs)))

/-- R150, R162: a LOW run shorter than `LM_LO` ends with FAIL; a line stuck LOW ends with FAIL at the
sample `LM_HI`; a line that stays HIGH after a valid lead mark of `n` samples ends with FAIL at the
sample `n + LS_HI`. -/
def Obligations.NoiseAndStuckLinesFail : Prop :=
  ∀ s : State, meetsRules s.params →
    (∀ n, 1 ≤ n → n < s.params.leadMark.lo →
      rspRegs (pollOn s (List.replicate n false ++ [true])) = RspRegs.fail) ∧
    rspRegs (pollOn s (List.replicate (s.params.leadMark.hi + 1) false)) = RspRegs.fail ∧
    (∀ n, inWindow s.params.leadMark n →
      rspRegs (pollOn s (List.replicate n false ++ List.replicate (s.params.leadSpace.hi + 1) true)) =
        RspRegs.fail)

/-! ## The host -/

/-- R132, R135 (a), (b): the animator's colors have period 192, and, with a gamma table as R131
constrains it, meet at the phase boundaries. -/
def Obligations.HueWheelIsPeriodicAndSeamless : Prop :=
  ∀ g : Gamma, (∀ hue, colorForHue g (hue + 192) = colorForHue g hue) ∧
    (gammaMeetsRule g →
      colorForHue g 63 = colorForHue g 64 ∧ colorForHue g 127 = colorForHue g 128 ∧
        colorForHue g 191 = colorForHue g 0)

/-- R133: a rendered frame is one WRCOLOR per pixel, in ascending order, each of the color of its hue,
then LATCH. -/
def Obligations.FrameIsOneColorPerPixelThenLatch : Prop :=
  ∀ (g : Gamma) (start density count : Nat),
    (renderFrame g start density count).length = count + 1 ∧
    (∀ i < count, (renderFrame g start density count)[i]? =
      some (.wrcolor (colorForHue g ((start + i * density) % 192)).r
        (colorForHue g ((start + i * density) % 192)).g
        (colorForHue g ((start + i * density) % 192)).b 0x00#8)) ∧
    (renderFrame g start density count)[count]? = some .latch

/-- R184: the CLEAR commands that clear a string of `n` pixels are well formed, none but CLEARs, and
their counts add up to `n`. Which split is made is the model's choice (log 16). -/
def Obligations.ClearCommandsCoverTheString : Prop :=
  ∀ (cw : CntWidth) (n : Nat),
    (∀ i ∈ clearCommands cw n, wellFormed cw i = true ∧ ∃ m, i = .clear m) ∧
    ((clearCommands cw n).map (fun i => match i with
      | .clear m => m
      | .sendch _ | .wrcolor _ _ _ _ | .latch | .irpoll => 0)).sum = n

/-- R180, R181, R188, R212 (1) and (5), R218, R222: the order of the host's program, cycle by cycle. It
resets the block, then issues a LATCH, then loops: the frame's commands in order, each only when the
block is ready and inside a frame never later than `L_MAX`; when they are complete, the frame advance and
the poll slice of `POLL_SLICE` cycles; polls one after another, a FAIL discarded; and, when the slice is
over, the next frame. The model's choices in it: a command is offered only to a ready block, where R221
lets the host offer it before and hold it (DESIGN CHOICE, log 30); when the host acts is the free
`HostChoice` (log 19); the LATCH of the initialisation, where R212 (5) also allows a LOW line without one
(log 32); the slice holds a poll and ends between polls (DEDUCED, log 29). -/
def Obligations.HostLoopRunsFrameThenPolls : Prop :=
  ∀ (hp : HostParams) (p : Params) (c : HostChoice) (o : Outputs) (h : HostState),
    HostState.initial.place = .resetting ∧
    (h.place = .resetting →
      (hostCycle hp p c o h).rst = true ∧ (hostCycle hp p c o h).command = none ∧
      (c.holdReset = true → (hostCycle hp p c o h).host = h) ∧
      (c.holdReset = false → (hostCycle hp p c o h).host.place = .issuing [.latch] .loop false)) ∧
    (h.place ≠ .resetting →
      hostCycle hp p c o h = hostIssue p c o (hostTurn hp (hostObserve hp p.cntW o (passTime h))) ∧
      (hostCycle hp p c o h).rst = false ∧ (hostCycle hp p c o h).host.place ≠ .resetting ∧
      (o.cmdReady = false → (hostCycle hp p c o h).command = none)) ∧
    (∀ i rest goal inFrame, h.place = .issuing (i :: rest) goal inFrame → o.cmdReady = true →
      (c.acts = true ∨ inFrame = true ∧ transmits i = true ∧ maxLatency p ≤ h.idle →
        (hostCycle hp p c o h).command = some i ∧
        (hostCycle hp p c o h).host.place = .issuing rest goal (inFrame || transmits i)) ∧
      ((hostCycle hp p c o h).command = none →
        (hostCycle hp p c o h).host = { h with idle := h.idle + 1 })) ∧
    (∀ inFrame, h.place = .issuing [] .loop inFrame → o.cmdReady = true →
      hostObserve hp p.cntW o h =
        { h with
          place := .issuing (renderFrame hp.gamma h.start h.density hp.nPixels) .polls false
          idle := 0 }) ∧
    (∀ inFrame, h.place = .issuing [] .polls inFrame → o.cmdReady = true →
      hostObserve hp p.cntW o h =
        { h with
          place := .slice false, idle := 0, spent := 0, start := (h.start + h.speed) % 192 }) ∧
    (h.place = .slice false ∨ h.place = .slice true ∧ h.spent + 1 < hp.pollSlice →
      ((hostCycle hp p c o h).command = some .irpoll ∧
          (hostCycle hp p c o h).host.place = .polling .active ∨
        (hostCycle hp p c o h).command = none ∧ (hostCycle hp p c o h).host.place = h.place) ∧
      (o.cmdReady = true → c.acts = true ∨ maxPollDelay p ≤ h.idle →
        (hostCycle hp p c o h).command = some .irpoll)) ∧
    (∀ m, h.place = .slice m ∨ h.place = .polling .active →
      passTime h = { h with spent := h.spent + 1 }) ∧
    (h.place = .polling .active → o.cmdReady = false → hostObserve hp p.cntW o h = h) ∧
    (h.place = .polling .active → o.cmdReady = true → o.rspOk = false →
      hostObserve hp p.cntW o h = { h with place := .slice true, idle := 0 }) ∧
    (h.place = .slice true → hp.pollSlice ≤ h.spent →
      hostTurn hp h =
        { h with
          place := .issuing (renderFrame hp.gamma h.start h.density hp.nPixels) .polls false
          idle := 0 }) ∧
    (h.place ≠ .slice true ∨ h.spent < hp.pollSlice → hostTurn hp h = h)

/-- R182, R183: in ACTIVE a successful response is applied by its code as the poll ends, and the poll
slice goes on but for the power command. With four distinct codes each code has its own action: the power
command the clearing of the string, the speed and density commands one step of their cycle (a free value,
log 17), the brightness command none on the animation state (log 16); a code that maps to no action is
ignored. -/
def Obligations.EveryCodeHasItsOwnAction : Prop :=
  ∀ (hp : HostParams) (cw : CntWidth) (h : HostState),
    (∀ o : Outputs, h.place = .polling .active → o.cmdReady = true → o.rspOk = true →
      hostObserve hp cw o h =
        applyCommand hp cw o.rspCmd { h with place := .slice true, idle := 0 }) ∧
    (hostMeetsRules hp →
      applyCommand hp cw hp.cmdPower h =
        { h with
          place := .issuing (clearCommands cw hp.nPixels ++ [.latch]) .standby false, idle := 0 } ∧
      applyCommand hp cw hp.cmdBright h = h ∧
      applyCommand hp cw hp.cmdSpeed h = { h with speed := Config.nextSpeed h.speed } ∧
      applyCommand hp cw hp.cmdDensity h = { h with density := Config.nextDensity h.density } ∧
      ∀ cmd, cmd ∉ [hp.cmdPower, hp.cmdBright, hp.cmdSpeed, hp.cmdDensity] →
        applyCommand hp cw cmd h = h)

/-- R184, R185, R186: the power command in ACTIVE clears the string, waits the latch and enters STANDBY.
In a cycle that begins in STANDBY the animation state does not change, and STANDBY is left exactly when
the response of its poll is a success with the power command. After the clear the host waits for `wake`
and issues nothing; a `wake` that it sees while it waits is followed by one poll; no other command is
issued. That a `wake` in any other cycle is missed is the model's choice (log 28). -/
def Obligations.StandbyIsLeftOnlyByThePowerCommand : Prop :=
  ∀ (hp : HostParams) (p : Params) (c : HostChoice) (o : Outputs) (h : HostState),
    (h.place = .polling .active → o.cmdReady = true → o.rspOk = true → o.rspCmd = hp.cmdPower →
      hostObserve hp p.cntW o h =
        { h with
          place := .issuing (clearCommands p.cntW hp.nPixels ++ [.latch]) .standby false
          idle := 0 }) ∧
    (h.mode = .standby →
      ((hostCycle hp p c o h).host.mode = .active ↔
        h.place = .polling .standby ∧ o.cmdReady = true ∧ o.rspOk = true ∧
          o.rspCmd = hp.cmdPower) ∧
      (hostCycle hp p c o h).host.start = h.start ∧ (hostCycle hp p c o h).host.speed = h.speed ∧
      (hostCycle hp p c o h).host.density = h.density) ∧
    (∀ inFrame, h.place = .issuing [] .standby inFrame →
      (hostCycle hp p c o h).command = none ∧
      (o.cmdReady = true → (hostCycle hp p c o h).host.place = .waiting)) ∧
    (h.place = .waiting → o.wake = false →
      hostCycle hp p c o h = { host := h, rst := false, command := none }) ∧
    (h.place = .waiting → o.wake = true →
      hostObserve hp p.cntW o h = { h with place := .woken, idle := 0 }) ∧
    (h.place = .woken →
      (hostCycle hp p c o h).command = some .irpoll ∧
        (hostCycle hp p c o h).host.place = .polling .standby ∨
      (hostCycle hp p c o h).command = none ∧ (hostCycle hp p c o h).host.place = .woken) ∧
    (h.place = .polling .standby → (hostCycle hp p c o h).host.mode = .standby →
      (hostCycle hp p c o h).command = none)
end

