-- ==== Sys2Proof/Laws/Decode.lean ====
section
/-! SUPPORT. The fields of a command word built from its parts, and the decoder by operation code. -/

namespace Sys2Proof

@[simp] theorem opField_cmdWordOf (op : BitVec 4) (arg : BitVec 32) :
    opField (cmdWordOf op arg) = op := by
  unfold opField cmdWordOf
  ext i hi
  simp only [BitVec.getElem_extractLsb', BitVec.getLsbD_append]
  simp [BitVec.getLsbD_eq_getElem, hi]

@[simp] theorem argField_cmdWordOf (op : BitVec 4) (arg : BitVec 32) :
    argField (cmdWordOf op arg) = arg := by
  unfold argField cmdWordOf
  ext i hi
  simp only [BitVec.getElem_extractLsb', BitVec.getLsbD_append]
  simp [BitVec.getLsbD_eq_getElem, hi]

/-- A word is its two fields (R70). -/
theorem cmdWordOf_fields (w : CmdWord) : cmdWordOf (opField w) (argField w) = w := by
  unfold cmdWordOf opField argField
  ext i hi
  simp only [BitVec.getElem_append, BitVec.getElem_extractLsb']
  split
  · simp [BitVec.getLsbD_eq_getElem hi]
  · simp only [show 32 + (i - 32) = i by omega]
    simp [BitVec.getLsbD_eq_getElem hi]

/-- Two words are equal exactly when their fields are. -/
theorem cmdWordOf_inj {o o' : BitVec 4} {a a' : BitVec 32} :
    cmdWordOf o a = cmdWordOf o' a' ↔ o = o' ∧ a = a' := by
  constructor
  · intro h
    exact ⟨by simpa using congrArg opField h, by simpa using congrArg argField h⟩
  · rintro ⟨rfl, rfl⟩
    rfl

/-- Masking a word masks its fields. -/
theorem cmdWordOf_and (o o' : BitVec 4) (a a' : BitVec 32) :
    cmdWordOf o a &&& cmdWordOf o' a' = cmdWordOf (o &&& o') (a &&& a') := by
  change ((o ++ a : BitVec (4 + 32)) &&& (o' ++ a' : BitVec (4 + 32))) =
    ((o &&& o') ++ (a &&& a') : BitVec (4 + 32))
  ext i hi
  simp only [BitVec.getElem_and, BitVec.getElem_append]
  split <;> rfl

/-- The mask of a row keeps the whole operation code (R88). -/
theorem and_usedBits (cw : CntWidth) (i : Instr) (w : CmdWord) :
    w &&& usedBits cw i = cmdWordOf (opField w) (argField w &&& operandMask cw i) := by
  rw [← cmdWordOf_fields w, usedBits, cmdWordOf_and, cmdWordOf_fields,
    show opField w &&& 0xF#4 = opField w by generalize opField w = o; revert o; decide]

@[simp] theorem opField_encode (i : Instr) : opField (encode i) = opCode i := by
  simp [encode]

@[simp] theorem argField_encode (i : Instr) : argField (encode i) = operandField i := by
  simp [encode]

theorem opField_toNat (w : CmdWord) : (opField w).toNat = w.toNat / 2 ^ 32 := by
  have := w.isLt
  simp [opField, BitVec.extractLsb'_toNat, Nat.shiftRight_eq_div_pow]
  omega

/-! The decoder, one lemma per operation code (R71). -/

theorem decode_sendch {cw : CntWidth} {w : CmdWord} (h : opField w = 0x1#4) :
    decode cw w = .ok (.sendch (argByte w 0)) := by simp [decode, h]

theorem decode_wrcolor {cw : CntWidth} {w : CmdWord} (h : opField w = 0x2#4) :
    decode cw w = .ok (.wrcolor (argByte w 24) (argByte w 16) (argByte w 8) (argByte w 0)) := by
  simp [decode, h]

theorem decode_clear {cw : CntWidth} {w : CmdWord} (h : opField w = 0x3#4) :
    decode cw w = .ok (.clear (argCount cw w)) := by simp [decode, h]

theorem decode_latch {cw : CntWidth} {w : CmdWord} (h : opField w = 0x4#4) :
    decode cw w = .ok .latch := by simp [decode, h]

theorem decode_irpoll {cw : CntWidth} {w : CmdWord} (h : opField w = 0x8#4) :
    decode cw w = .ok .irpoll := by simp [decode, h]

/-- Everything the decoder can answer (R71, R77, R88). -/
theorem decode_cases (cw : CntWidth) (w : CmdWord) :
    (opField w = 0x1#4 ∧ decode cw w = .ok (.sendch (argByte w 0))) ∨
    (opField w = 0x2#4 ∧
      decode cw w = .ok (.wrcolor (argByte w 24) (argByte w 16) (argByte w 8) (argByte w 0))) ∨
    (opField w = 0x3#4 ∧ decode cw w = .ok (.clear (argCount cw w))) ∨
    (opField w = 0x4#4 ∧ decode cw w = .ok .latch) ∨
    (opField w = 0x8#4 ∧ decode cw w = .ok .irpoll) ∨
    (opField w ≠ 0x1#4 ∧ opField w ≠ 0x2#4 ∧ opField w ≠ 0x3#4 ∧ opField w ≠ 0x4#4 ∧
      opField w ≠ 0x8#4 ∧ decode cw w = .error (.reserved (opField w))) := by
  by_cases h1 : opField w = 0x1#4
  · exact .inl ⟨h1, decode_sendch h1⟩
  by_cases h2 : opField w = 0x2#4
  · exact .inr (.inl ⟨h2, decode_wrcolor h2⟩)
  by_cases h3 : opField w = 0x3#4
  · exact .inr (.inr (.inl ⟨h3, decode_clear h3⟩))
  by_cases h4 : opField w = 0x4#4
  · exact .inr (.inr (.inr (.inl ⟨h4, decode_latch h4⟩)))
  by_cases h8 : opField w = 0x8#4
  · exact .inr (.inr (.inr (.inr (.inl ⟨h8, decode_irpoll h8⟩))))
  refine .inr (.inr (.inr (.inr (.inr ⟨h1, h2, h3, h4, h8, ?_⟩))))
  have hn : ∀ k : BitVec 4, opField w ≠ k → (opField w).toNat ≠ k.toNat := fun k h e =>
    h (BitVec.eq_of_toNat_eq e)
  have := hn _ h1; have := hn _ h2; have := hn _ h3; have := hn _ h4; have := hn _ h8
  unfold decode
  split <;> simp_all

/-- The bytes of an operand field of four bytes (R73). -/
theorem argByte_of_bytes {w : CmdWord} {r g b v : Byte}
    (h : argField w = r ++ (g ++ (b ++ v))) :
    argByte w 24 = r ∧ argByte w 16 = g ∧ argByte w 8 = b ∧ argByte w 0 = v := by
  unfold argByte
  rw [h]
  refine ⟨?_, ?_, ?_, ?_⟩ <;>
  · ext i hi
    simp only [BitVec.getElem_extractLsb', BitVec.getLsbD_append]
    repeat' split
    all_goals first | omega | simp [BitVec.getLsbD_eq_getElem, hi]

/-- The low byte of an operand field with 24 ignored bits above it (R72). -/
theorem argByte_of_low {w : CmdWord} {v : Byte} (h : argField w = 0#24 ++ v) :
    argByte w 0 = v := by
  unfold argByte
  rw [h]
  ext i hi
  simp only [BitVec.getElem_extractLsb', BitVec.getLsbD_append]
  simp [BitVec.getLsbD_eq_getElem, hi]

/-- A count below `2^CNT_W` is what the count field of its word holds (R74). -/
theorem argCount_of_count {cw : CntWidth} {w : CmdWord} {n : Nat} (hn : n < 2 ^ cw.bits)
    (h : argField w = BitVec.ofNat 32 n) : argCount cw w = n := by
  have h32 : 2 ^ cw.bits ≤ 2 ^ 32 := by cases cw <;> decide
  unfold argCount
  rw [h, BitVec.toNat_ofNat, Nat.mod_eq_of_lt (show n < 2 ^ 32 by omega), Nat.mod_eq_of_lt hn]

end Sys2Proof
end

