-- ==== Sys2Proof/Laws/State.lean ====
section
/-! SUPPORT. One lemma per field per shared update of State, so that no proof unfolds a record
update. -/

namespace Sys2Proof.Machine

/-! ## `State.clearPulse` -/

@[simp] theorem clearPulse_params (s : State) : s.clearPulse.params = s.params := rfl
@[simp] theorem clearPulse_cycle (s : State) : s.clearPulse.cycle = s.cycle := rfl
@[simp] theorem clearPulse_pins (s : State) : s.clearPulse.pins = s.pins := rfl
@[simp] theorem clearPulse_feed (s : State) : s.clearPulse.feed = s.feed := rfl
@[simp] theorem clearPulse_dout (s : State) : s.clearPulse.dout = s.dout := rfl
@[simp] theorem clearPulse_phase (s : State) : s.clearPulse.phase = s.phase := rfl
@[simp] theorem clearPulse_cnt (s : State) : s.clearPulse.cnt = s.cnt := rfl
@[simp] theorem clearPulse_sr (s : State) : s.clearPulse.sr = s.sr := rfl
@[simp] theorem clearPulse_nbits (s : State) : s.clearPulse.nbits = s.nbits := rfl
@[simp] theorem clearPulse_chbuf0 (s : State) : s.clearPulse.chbuf0 = s.chbuf0 := rfl
@[simp] theorem clearPulse_chbuf1 (s : State) : s.clearPulse.chbuf1 = s.chbuf1 := rfl
@[simp] theorem clearPulse_chbuf2 (s : State) : s.clearPulse.chbuf2 = s.chbuf2 := rfl
@[simp] theorem clearPulse_nch (s : State) : s.clearPulse.nch = s.nch := rfl
@[simp] theorem clearPulse_ncol (s : State) : s.clearPulse.ncol = s.ncol := rfl
@[simp] theorem clearPulse_ist (s : State) : s.clearPulse.ist = s.ist := rfl
@[simp] theorem clearPulse_tick (s : State) : s.clearPulse.tick = s.tick := rfl
@[simp] theorem clearPulse_dur (s : State) : s.clearPulse.dur = s.dur := rfl
@[simp] theorem clearPulse_shreg (s : State) : s.clearPulse.shreg = s.shreg := rfl
@[simp] theorem clearPulse_nrx (s : State) : s.clearPulse.nrx = s.nrx := rfl
@[simp] theorem clearPulse_rspValid (s : State) : s.clearPulse.rspValid = false := rfl
@[simp] theorem clearPulse_rspOk (s : State) : s.clearPulse.rspOk = s.rspOk := rfl
@[simp] theorem clearPulse_rspCmd (s : State) : s.clearPulse.rspCmd = s.rspCmd := rfl
@[simp] theorem clearPulse_irPrev (s : State) : s.clearPulse.irPrev = s.irPrev := rfl
@[simp] theorem clearPulse_wake (s : State) : s.clearPulse.wake = s.wake := rfl

/-! ## `State.respond` -/

@[simp] theorem respond_params (ok : Bool) (cmd : Byte) (s : State) :
    (State.respond ok cmd s).params = s.params := rfl
@[simp] theorem respond_cycle (ok : Bool) (cmd : Byte) (s : State) :
    (State.respond ok cmd s).cycle = s.cycle := rfl
@[simp] theorem respond_pins (ok : Bool) (cmd : Byte) (s : State) :
    (State.respond ok cmd s).pins = s.pins := rfl
@[simp] theorem respond_feed (ok : Bool) (cmd : Byte) (s : State) :
    (State.respond ok cmd s).feed = s.feed := rfl
@[simp] theorem respond_dout (ok : Bool) (cmd : Byte) (s : State) :
    (State.respond ok cmd s).dout = s.dout := rfl
@[simp] theorem respond_phase (ok : Bool) (cmd : Byte) (s : State) :
    (State.respond ok cmd s).phase = s.phase := rfl
@[simp] theorem respond_cnt (ok : Bool) (cmd : Byte) (s : State) :
    (State.respond ok cmd s).cnt = s.cnt := rfl
@[simp] theorem respond_sr (ok : Bool) (cmd : Byte) (s : State) :
    (State.respond ok cmd s).sr = s.sr := rfl
@[simp] theorem respond_nbits (ok : Bool) (cmd : Byte) (s : State) :
    (State.respond ok cmd s).nbits = s.nbits := rfl
@[simp] theorem respond_chbuf0 (ok : Bool) (cmd : Byte) (s : State) :
    (State.respond ok cmd s).chbuf0 = s.chbuf0 := rfl
@[simp] theorem respond_chbuf1 (ok : Bool) (cmd : Byte) (s : State) :
    (State.respond ok cmd s).chbuf1 = s.chbuf1 := rfl
@[simp] theorem respond_chbuf2 (ok : Bool) (cmd : Byte) (s : State) :
    (State.respond ok cmd s).chbuf2 = s.chbuf2 := rfl
@[simp] theorem respond_nch (ok : Bool) (cmd : Byte) (s : State) :
    (State.respond ok cmd s).nch = s.nch := rfl
@[simp] theorem respond_ncol (ok : Bool) (cmd : Byte) (s : State) :
    (State.respond ok cmd s).ncol = s.ncol := rfl
@[simp] theorem respond_ist (ok : Bool) (cmd : Byte) (s : State) :
    (State.respond ok cmd s).ist = s.ist := rfl
@[simp] theorem respond_tick (ok : Bool) (cmd : Byte) (s : State) :
    (State.respond ok cmd s).tick = s.tick := rfl
@[simp] theorem respond_dur (ok : Bool) (cmd : Byte) (s : State) :
    (State.respond ok cmd s).dur = s.dur := rfl
@[simp] theorem respond_shreg (ok : Bool) (cmd : Byte) (s : State) :
    (State.respond ok cmd s).shreg = s.shreg := rfl
@[simp] theorem respond_nrx (ok : Bool) (cmd : Byte) (s : State) :
    (State.respond ok cmd s).nrx = s.nrx := rfl
@[simp] theorem respond_rspValid (ok : Bool) (cmd : Byte) (s : State) :
    (State.respond ok cmd s).rspValid = true := rfl
@[simp] theorem respond_rspOk (ok : Bool) (cmd : Byte) (s : State) :
    (State.respond ok cmd s).rspOk = ok := rfl
@[simp] theorem respond_rspCmd (ok : Bool) (cmd : Byte) (s : State) :
    (State.respond ok cmd s).rspCmd = (if ok then cmd else 0x00#8) := rfl
@[simp] theorem respond_irPrev (ok : Bool) (cmd : Byte) (s : State) :
    (State.respond ok cmd s).irPrev = s.irPrev := rfl
@[simp] theorem respond_wake (ok : Bool) (cmd : Byte) (s : State) :
    (State.respond ok cmd s).wake = s.wake := rfl

/-! ## `State.wakeStep` -/

@[simp] theorem wakeStep_params (s : State) : s.wakeStep.params = s.params := rfl
@[simp] theorem wakeStep_cycle (s : State) : s.wakeStep.cycle = s.cycle := rfl
@[simp] theorem wakeStep_pins (s : State) : s.wakeStep.pins = s.pins := rfl
@[simp] theorem wakeStep_feed (s : State) : s.wakeStep.feed = s.feed := rfl
@[simp] theorem wakeStep_dout (s : State) : s.wakeStep.dout = s.dout := rfl
@[simp] theorem wakeStep_phase (s : State) : s.wakeStep.phase = s.phase := rfl
@[simp] theorem wakeStep_cnt (s : State) : s.wakeStep.cnt = s.cnt := rfl
@[simp] theorem wakeStep_sr (s : State) : s.wakeStep.sr = s.sr := rfl
@[simp] theorem wakeStep_nbits (s : State) : s.wakeStep.nbits = s.nbits := rfl
@[simp] theorem wakeStep_chbuf0 (s : State) : s.wakeStep.chbuf0 = s.chbuf0 := rfl
@[simp] theorem wakeStep_chbuf1 (s : State) : s.wakeStep.chbuf1 = s.chbuf1 := rfl
@[simp] theorem wakeStep_chbuf2 (s : State) : s.wakeStep.chbuf2 = s.chbuf2 := rfl
@[simp] theorem wakeStep_nch (s : State) : s.wakeStep.nch = s.nch := rfl
@[simp] theorem wakeStep_ncol (s : State) : s.wakeStep.ncol = s.ncol := rfl
@[simp] theorem wakeStep_ist (s : State) : s.wakeStep.ist = s.ist := rfl
@[simp] theorem wakeStep_tick (s : State) : s.wakeStep.tick = s.tick := rfl
@[simp] theorem wakeStep_dur (s : State) : s.wakeStep.dur = s.dur := rfl
@[simp] theorem wakeStep_shreg (s : State) : s.wakeStep.shreg = s.shreg := rfl
@[simp] theorem wakeStep_nrx (s : State) : s.wakeStep.nrx = s.nrx := rfl
@[simp] theorem wakeStep_rspValid (s : State) : s.wakeStep.rspValid = s.rspValid := rfl
@[simp] theorem wakeStep_rspOk (s : State) : s.wakeStep.rspOk = s.rspOk := rfl
@[simp] theorem wakeStep_rspCmd (s : State) : s.wakeStep.rspCmd = s.rspCmd := rfl
@[simp] theorem wakeStep_irPrev (s : State) : s.wakeStep.irPrev = s.pins.irIn := rfl
@[simp] theorem wakeStep_wake (s : State) : s.wakeStep.wake = (s.pins.irIn != s.irPrev) := rfl

/-! ## `startChannel` -/

@[simp] theorem startChannel_params (v : Byte) (s : State) :
    (startChannel v s).params = s.params := rfl
@[simp] theorem startChannel_cycle (v : Byte) (s : State) :
    (startChannel v s).cycle = s.cycle := rfl
@[simp] theorem startChannel_pins (v : Byte) (s : State) : (startChannel v s).pins = s.pins := rfl
@[simp] theorem startChannel_feed (v : Byte) (s : State) : (startChannel v s).feed = s.feed := rfl
@[simp] theorem startChannel_dout (v : Byte) (s : State) : (startChannel v s).dout = true := rfl
@[simp] theorem startChannel_phase (v : Byte) (s : State) : (startChannel v s).phase = .high := rfl
@[simp] theorem startChannel_cnt (v : Byte) (s : State) :
    (startChannel v s).cnt = highCycles s.params v[7] := rfl
@[simp] theorem startChannel_sr (v : Byte) (s : State) : (startChannel v s).sr = v := rfl
@[simp] theorem startChannel_nbits (v : Byte) (s : State) : (startChannel v s).nbits = 8#4 := rfl
@[simp] theorem startChannel_chbuf0 (v : Byte) (s : State) :
    (startChannel v s).chbuf0 = s.chbuf0 := rfl
@[simp] theorem startChannel_chbuf1 (v : Byte) (s : State) :
    (startChannel v s).chbuf1 = s.chbuf1 := rfl
@[simp] theorem startChannel_chbuf2 (v : Byte) (s : State) :
    (startChannel v s).chbuf2 = s.chbuf2 := rfl
@[simp] theorem startChannel_nch (v : Byte) (s : State) : (startChannel v s).nch = s.nch := rfl
@[simp] theorem startChannel_ncol (v : Byte) (s : State) : (startChannel v s).ncol = s.ncol := rfl
@[simp] theorem startChannel_ist (v : Byte) (s : State) : (startChannel v s).ist = s.ist := rfl
@[simp] theorem startChannel_tick (v : Byte) (s : State) : (startChannel v s).tick = s.tick := rfl
@[simp] theorem startChannel_dur (v : Byte) (s : State) : (startChannel v s).dur = s.dur := rfl
@[simp] theorem startChannel_shreg (v : Byte) (s : State) :
    (startChannel v s).shreg = s.shreg := rfl
@[simp] theorem startChannel_nrx (v : Byte) (s : State) : (startChannel v s).nrx = s.nrx := rfl
@[simp] theorem startChannel_rspValid (v : Byte) (s : State) :
    (startChannel v s).rspValid = s.rspValid := rfl
@[simp] theorem startChannel_rspOk (v : Byte) (s : State) :
    (startChannel v s).rspOk = s.rspOk := rfl
@[simp] theorem startChannel_rspCmd (v : Byte) (s : State) :
    (startChannel v s).rspCmd = s.rspCmd := rfl
@[simp] theorem startChannel_irPrev (v : Byte) (s : State) :
    (startChannel v s).irPrev = s.irPrev := rfl
@[simp] theorem startChannel_wake (v : Byte) (s : State) : (startChannel v s).wake = s.wake := rfl

/-! ## `bufferChannels` -/

@[simp] theorem bufferChannels_params (b0 b1 b2 : Byte) (n : BitVec 2) (s : State) :
    (bufferChannels b0 b1 b2 n s).params = s.params := rfl
@[simp] theorem bufferChannels_cycle (b0 b1 b2 : Byte) (n : BitVec 2) (s : State) :
    (bufferChannels b0 b1 b2 n s).cycle = s.cycle := rfl
@[simp] theorem bufferChannels_pins (b0 b1 b2 : Byte) (n : BitVec 2) (s : State) :
    (bufferChannels b0 b1 b2 n s).pins = s.pins := rfl
@[simp] theorem bufferChannels_feed (b0 b1 b2 : Byte) (n : BitVec 2) (s : State) :
    (bufferChannels b0 b1 b2 n s).feed = s.feed := rfl
@[simp] theorem bufferChannels_dout (b0 b1 b2 : Byte) (n : BitVec 2) (s : State) :
    (bufferChannels b0 b1 b2 n s).dout = s.dout := rfl
@[simp] theorem bufferChannels_phase (b0 b1 b2 : Byte) (n : BitVec 2) (s : State) :
    (bufferChannels b0 b1 b2 n s).phase = s.phase := rfl
@[simp] theorem bufferChannels_cnt (b0 b1 b2 : Byte) (n : BitVec 2) (s : State) :
    (bufferChannels b0 b1 b2 n s).cnt = s.cnt := rfl
@[simp] theorem bufferChannels_sr (b0 b1 b2 : Byte) (n : BitVec 2) (s : State) :
    (bufferChannels b0 b1 b2 n s).sr = s.sr := rfl
@[simp] theorem bufferChannels_nbits (b0 b1 b2 : Byte) (n : BitVec 2) (s : State) :
    (bufferChannels b0 b1 b2 n s).nbits = s.nbits := rfl
@[simp] theorem bufferChannels_chbuf0 (b0 b1 b2 : Byte) (n : BitVec 2) (s : State) :
    (bufferChannels b0 b1 b2 n s).chbuf0 = b0 := rfl
@[simp] theorem bufferChannels_chbuf1 (b0 b1 b2 : Byte) (n : BitVec 2) (s : State) :
    (bufferChannels b0 b1 b2 n s).chbuf1 = b1 := rfl
@[simp] theorem bufferChannels_chbuf2 (b0 b1 b2 : Byte) (n : BitVec 2) (s : State) :
    (bufferChannels b0 b1 b2 n s).chbuf2 = b2 := rfl
@[simp] theorem bufferChannels_nch (b0 b1 b2 : Byte) (n : BitVec 2) (s : State) :
    (bufferChannels b0 b1 b2 n s).nch = n := rfl
@[simp] theorem bufferChannels_ncol (b0 b1 b2 : Byte) (n : BitVec 2) (s : State) :
    (bufferChannels b0 b1 b2 n s).ncol = s.ncol := rfl
@[simp] theorem bufferChannels_ist (b0 b1 b2 : Byte) (n : BitVec 2) (s : State) :
    (bufferChannels b0 b1 b2 n s).ist = s.ist := rfl
@[simp] theorem bufferChannels_tick (b0 b1 b2 : Byte) (n : BitVec 2) (s : State) :
    (bufferChannels b0 b1 b2 n s).tick = s.tick := rfl
@[simp] theorem bufferChannels_dur (b0 b1 b2 : Byte) (n : BitVec 2) (s : State) :
    (bufferChannels b0 b1 b2 n s).dur = s.dur := rfl
@[simp] theorem bufferChannels_shreg (b0 b1 b2 : Byte) (n : BitVec 2) (s : State) :
    (bufferChannels b0 b1 b2 n s).shreg = s.shreg := rfl
@[simp] theorem bufferChannels_nrx (b0 b1 b2 : Byte) (n : BitVec 2) (s : State) :
    (bufferChannels b0 b1 b2 n s).nrx = s.nrx := rfl
@[simp] theorem bufferChannels_rspValid (b0 b1 b2 : Byte) (n : BitVec 2) (s : State) :
    (bufferChannels b0 b1 b2 n s).rspValid = s.rspValid := rfl
@[simp] theorem bufferChannels_rspOk (b0 b1 b2 : Byte) (n : BitVec 2) (s : State) :
    (bufferChannels b0 b1 b2 n s).rspOk = s.rspOk := rfl
@[simp] theorem bufferChannels_rspCmd (b0 b1 b2 : Byte) (n : BitVec 2) (s : State) :
    (bufferChannels b0 b1 b2 n s).rspCmd = s.rspCmd := rfl
@[simp] theorem bufferChannels_irPrev (b0 b1 b2 : Byte) (n : BitVec 2) (s : State) :
    (bufferChannels b0 b1 b2 n s).irPrev = s.irPrev := rfl
@[simp] theorem bufferChannels_wake (b0 b1 b2 : Byte) (n : BitVec 2) (s : State) :
    (bufferChannels b0 b1 b2 n s).wake = s.wake := rfl

/-! ## `setColorsLeft` -/

@[simp] theorem setColorsLeft_params (n : Nat) (s : State) :
    (setColorsLeft n s).params = s.params := rfl
@[simp] theorem setColorsLeft_cycle (n : Nat) (s : State) :
    (setColorsLeft n s).cycle = s.cycle := rfl
@[simp] theorem setColorsLeft_pins (n : Nat) (s : State) : (setColorsLeft n s).pins = s.pins := rfl
@[simp] theorem setColorsLeft_feed (n : Nat) (s : State) : (setColorsLeft n s).feed = s.feed := rfl
@[simp] theorem setColorsLeft_dout (n : Nat) (s : State) : (setColorsLeft n s).dout = s.dout := rfl
@[simp] theorem setColorsLeft_phase (n : Nat) (s : State) :
    (setColorsLeft n s).phase = s.phase := rfl
@[simp] theorem setColorsLeft_cnt (n : Nat) (s : State) : (setColorsLeft n s).cnt = s.cnt := rfl
@[simp] theorem setColorsLeft_sr (n : Nat) (s : State) : (setColorsLeft n s).sr = s.sr := rfl
@[simp] theorem setColorsLeft_nbits (n : Nat) (s : State) :
    (setColorsLeft n s).nbits = s.nbits := rfl
@[simp] theorem setColorsLeft_chbuf0 (n : Nat) (s : State) :
    (setColorsLeft n s).chbuf0 = s.chbuf0 := rfl
@[simp] theorem setColorsLeft_chbuf1 (n : Nat) (s : State) :
    (setColorsLeft n s).chbuf1 = s.chbuf1 := rfl
@[simp] theorem setColorsLeft_chbuf2 (n : Nat) (s : State) :
    (setColorsLeft n s).chbuf2 = s.chbuf2 := rfl
@[simp] theorem setColorsLeft_nch (n : Nat) (s : State) : (setColorsLeft n s).nch = s.nch := rfl
@[simp] theorem setColorsLeft_ncol (n : Nat) (s : State) : (setColorsLeft n s).ncol = n := rfl
@[simp] theorem setColorsLeft_ist (n : Nat) (s : State) : (setColorsLeft n s).ist = s.ist := rfl
@[simp] theorem setColorsLeft_tick (n : Nat) (s : State) : (setColorsLeft n s).tick = s.tick := rfl
@[simp] theorem setColorsLeft_dur (n : Nat) (s : State) : (setColorsLeft n s).dur = s.dur := rfl
@[simp] theorem setColorsLeft_shreg (n : Nat) (s : State) :
    (setColorsLeft n s).shreg = s.shreg := rfl
@[simp] theorem setColorsLeft_nrx (n : Nat) (s : State) : (setColorsLeft n s).nrx = s.nrx := rfl
@[simp] theorem setColorsLeft_rspValid (n : Nat) (s : State) :
    (setColorsLeft n s).rspValid = s.rspValid := rfl
@[simp] theorem setColorsLeft_rspOk (n : Nat) (s : State) :
    (setColorsLeft n s).rspOk = s.rspOk := rfl
@[simp] theorem setColorsLeft_rspCmd (n : Nat) (s : State) :
    (setColorsLeft n s).rspCmd = s.rspCmd := rfl
@[simp] theorem setColorsLeft_irPrev (n : Nat) (s : State) :
    (setColorsLeft n s).irPrev = s.irPrev := rfl
@[simp] theorem setColorsLeft_wake (n : Nat) (s : State) : (setColorsLeft n s).wake = s.wake := rfl

/-! ## `endDecode` -/

@[simp] theorem endDecode_params (ok : Bool) (cmd : Byte) (s : State) :
    (endDecode ok cmd s).params = s.params := rfl
@[simp] theorem endDecode_cycle (ok : Bool) (cmd : Byte) (s : State) :
    (endDecode ok cmd s).cycle = s.cycle := rfl
@[simp] theorem endDecode_pins (ok : Bool) (cmd : Byte) (s : State) :
    (endDecode ok cmd s).pins = s.pins := rfl
@[simp] theorem endDecode_feed (ok : Bool) (cmd : Byte) (s : State) :
    (endDecode ok cmd s).feed = s.feed := rfl
@[simp] theorem endDecode_dout (ok : Bool) (cmd : Byte) (s : State) :
    (endDecode ok cmd s).dout = s.dout := rfl
@[simp] theorem endDecode_phase (ok : Bool) (cmd : Byte) (s : State) :
    (endDecode ok cmd s).phase = s.phase := rfl
@[simp] theorem endDecode_cnt (ok : Bool) (cmd : Byte) (s : State) :
    (endDecode ok cmd s).cnt = s.cnt := rfl
@[simp] theorem endDecode_sr (ok : Bool) (cmd : Byte) (s : State) :
    (endDecode ok cmd s).sr = s.sr := rfl
@[simp] theorem endDecode_nbits (ok : Bool) (cmd : Byte) (s : State) :
    (endDecode ok cmd s).nbits = s.nbits := rfl
@[simp] theorem endDecode_chbuf0 (ok : Bool) (cmd : Byte) (s : State) :
    (endDecode ok cmd s).chbuf0 = s.chbuf0 := rfl
@[simp] theorem endDecode_chbuf1 (ok : Bool) (cmd : Byte) (s : State) :
    (endDecode ok cmd s).chbuf1 = s.chbuf1 := rfl
@[simp] theorem endDecode_chbuf2 (ok : Bool) (cmd : Byte) (s : State) :
    (endDecode ok cmd s).chbuf2 = s.chbuf2 := rfl
@[simp] theorem endDecode_nch (ok : Bool) (cmd : Byte) (s : State) :
    (endDecode ok cmd s).nch = s.nch := rfl
@[simp] theorem endDecode_ncol (ok : Bool) (cmd : Byte) (s : State) :
    (endDecode ok cmd s).ncol = s.ncol := rfl
@[simp] theorem endDecode_ist (ok : Bool) (cmd : Byte) (s : State) :
    (endDecode ok cmd s).ist = .idle := rfl
@[simp] theorem endDecode_tick (ok : Bool) (cmd : Byte) (s : State) :
    (endDecode ok cmd s).tick = s.tick := rfl
@[simp] theorem endDecode_dur (ok : Bool) (cmd : Byte) (s : State) :
    (endDecode ok cmd s).dur = 0#8 := rfl
@[simp] theorem endDecode_shreg (ok : Bool) (cmd : Byte) (s : State) :
    (endDecode ok cmd s).shreg = s.shreg := rfl
@[simp] theorem endDecode_nrx (ok : Bool) (cmd : Byte) (s : State) :
    (endDecode ok cmd s).nrx = s.nrx := rfl
@[simp] theorem endDecode_rspValid (ok : Bool) (cmd : Byte) (s : State) :
    (endDecode ok cmd s).rspValid = true := rfl
@[simp] theorem endDecode_rspOk (ok : Bool) (cmd : Byte) (s : State) :
    (endDecode ok cmd s).rspOk = ok := rfl
@[simp] theorem endDecode_rspCmd (ok : Bool) (cmd : Byte) (s : State) :
    (endDecode ok cmd s).rspCmd = (if ok then cmd else 0x00#8) := rfl
@[simp] theorem endDecode_irPrev (ok : Bool) (cmd : Byte) (s : State) :
    (endDecode ok cmd s).irPrev = s.irPrev := rfl
@[simp] theorem endDecode_wake (ok : Bool) (cmd : Byte) (s : State) :
    (endDecode ok cmd s).wake = s.wake := rfl

/-! ## `enterInterval` -/

@[simp] theorem enterInterval_params (n : IrState) (s : State) :
    (enterInterval n s).params = s.params := rfl
@[simp] theorem enterInterval_cycle (n : IrState) (s : State) :
    (enterInterval n s).cycle = s.cycle := rfl
@[simp] theorem enterInterval_pins (n : IrState) (s : State) :
    (enterInterval n s).pins = s.pins := rfl
@[simp] theorem enterInterval_feed (n : IrState) (s : State) :
    (enterInterval n s).feed = s.feed := rfl
@[simp] theorem enterInterval_dout (n : IrState) (s : State) :
    (enterInterval n s).dout = s.dout := rfl
@[simp] theorem enterInterval_phase (n : IrState) (s : State) :
    (enterInterval n s).phase = s.phase := rfl
@[simp] theorem enterInterval_cnt (n : IrState) (s : State) : (enterInterval n s).cnt = s.cnt := rfl
@[simp] theorem enterInterval_sr (n : IrState) (s : State) : (enterInterval n s).sr = s.sr := rfl
@[simp] theorem enterInterval_nbits (n : IrState) (s : State) :
    (enterInterval n s).nbits = s.nbits := rfl
@[simp] theorem enterInterval_chbuf0 (n : IrState) (s : State) :
    (enterInterval n s).chbuf0 = s.chbuf0 := rfl
@[simp] theorem enterInterval_chbuf1 (n : IrState) (s : State) :
    (enterInterval n s).chbuf1 = s.chbuf1 := rfl
@[simp] theorem enterInterval_chbuf2 (n : IrState) (s : State) :
    (enterInterval n s).chbuf2 = s.chbuf2 := rfl
@[simp] theorem enterInterval_nch (n : IrState) (s : State) : (enterInterval n s).nch = s.nch := rfl
@[simp] theorem enterInterval_ncol (n : IrState) (s : State) :
    (enterInterval n s).ncol = s.ncol := rfl
@[simp] theorem enterInterval_ist (n : IrState) (s : State) : (enterInterval n s).ist = n := rfl
@[simp] theorem enterInterval_tick (n : IrState) (s : State) :
    (enterInterval n s).tick = s.tick := rfl
@[simp] theorem enterInterval_dur (n : IrState) (s : State) : (enterInterval n s).dur = 1#8 := rfl
@[simp] theorem enterInterval_shreg (n : IrState) (s : State) :
    (enterInterval n s).shreg = s.shreg := rfl
@[simp] theorem enterInterval_nrx (n : IrState) (s : State) : (enterInterval n s).nrx = s.nrx := rfl
@[simp] theorem enterInterval_rspValid (n : IrState) (s : State) :
    (enterInterval n s).rspValid = s.rspValid := rfl
@[simp] theorem enterInterval_rspOk (n : IrState) (s : State) :
    (enterInterval n s).rspOk = s.rspOk := rfl
@[simp] theorem enterInterval_rspCmd (n : IrState) (s : State) :
    (enterInterval n s).rspCmd = s.rspCmd := rfl
@[simp] theorem enterInterval_irPrev (n : IrState) (s : State) :
    (enterInterval n s).irPrev = s.irPrev := rfl
@[simp] theorem enterInterval_wake (n : IrState) (s : State) :
    (enterInterval n s).wake = s.wake := rfl

/-! ## `beginDecode` -/

@[simp] theorem beginDecode_params (s : State) : (beginDecode s).params = s.params := rfl
@[simp] theorem beginDecode_cycle (s : State) : (beginDecode s).cycle = s.cycle := rfl
@[simp] theorem beginDecode_pins (s : State) : (beginDecode s).pins = s.pins := rfl
@[simp] theorem beginDecode_feed (s : State) : (beginDecode s).feed = s.feed := rfl
@[simp] theorem beginDecode_dout (s : State) : (beginDecode s).dout = s.dout := rfl
@[simp] theorem beginDecode_phase (s : State) : (beginDecode s).phase = s.phase := rfl
@[simp] theorem beginDecode_cnt (s : State) : (beginDecode s).cnt = s.cnt := rfl
@[simp] theorem beginDecode_sr (s : State) : (beginDecode s).sr = s.sr := rfl
@[simp] theorem beginDecode_nbits (s : State) : (beginDecode s).nbits = s.nbits := rfl
@[simp] theorem beginDecode_chbuf0 (s : State) : (beginDecode s).chbuf0 = s.chbuf0 := rfl
@[simp] theorem beginDecode_chbuf1 (s : State) : (beginDecode s).chbuf1 = s.chbuf1 := rfl
@[simp] theorem beginDecode_chbuf2 (s : State) : (beginDecode s).chbuf2 = s.chbuf2 := rfl
@[simp] theorem beginDecode_nch (s : State) : (beginDecode s).nch = s.nch := rfl
@[simp] theorem beginDecode_ncol (s : State) : (beginDecode s).ncol = s.ncol := rfl
@[simp] theorem beginDecode_ist (s : State) : (beginDecode s).ist = .leadMark := rfl
@[simp] theorem beginDecode_tick (s : State) : (beginDecode s).tick = s.params.tickDiv - 1 := rfl
@[simp] theorem beginDecode_dur (s : State) : (beginDecode s).dur = 1#8 := rfl
@[simp] theorem beginDecode_shreg (s : State) : (beginDecode s).shreg = 0x00000000#32 := rfl
@[simp] theorem beginDecode_nrx (s : State) : (beginDecode s).nrx = 0#6 := rfl
@[simp] theorem beginDecode_rspValid (s : State) : (beginDecode s).rspValid = s.rspValid := rfl
@[simp] theorem beginDecode_rspOk (s : State) : (beginDecode s).rspOk = s.rspOk := rfl
@[simp] theorem beginDecode_rspCmd (s : State) : (beginDecode s).rspCmd = s.rspCmd := rfl
@[simp] theorem beginDecode_irPrev (s : State) : (beginDecode s).irPrev = s.irPrev := rfl
@[simp] theorem beginDecode_wake (s : State) : (beginDecode s).wake = s.wake := rfl

/-! ## `unitsAtRest` -/

@[simp] theorem unitsAtRest_params (s : State) : (unitsAtRest s).params = s.params := rfl
@[simp] theorem unitsAtRest_cycle (s : State) : (unitsAtRest s).cycle = s.cycle := rfl
@[simp] theorem unitsAtRest_pins (s : State) : (unitsAtRest s).pins = s.pins := rfl
@[simp] theorem unitsAtRest_feed (s : State) : (unitsAtRest s).feed = s.feed := rfl
@[simp] theorem unitsAtRest_dout (s : State) : (unitsAtRest s).dout = false := rfl
@[simp] theorem unitsAtRest_phase (s : State) : (unitsAtRest s).phase = .idle := rfl
@[simp] theorem unitsAtRest_cnt (s : State) : (unitsAtRest s).cnt = s.cnt := rfl
@[simp] theorem unitsAtRest_sr (s : State) : (unitsAtRest s).sr = s.sr := rfl
@[simp] theorem unitsAtRest_nbits (s : State) : (unitsAtRest s).nbits = 0#4 := rfl
@[simp] theorem unitsAtRest_chbuf0 (s : State) : (unitsAtRest s).chbuf0 = s.chbuf0 := rfl
@[simp] theorem unitsAtRest_chbuf1 (s : State) : (unitsAtRest s).chbuf1 = s.chbuf1 := rfl
@[simp] theorem unitsAtRest_chbuf2 (s : State) : (unitsAtRest s).chbuf2 = s.chbuf2 := rfl
@[simp] theorem unitsAtRest_nch (s : State) : (unitsAtRest s).nch = 0#2 := rfl
@[simp] theorem unitsAtRest_ncol (s : State) : (unitsAtRest s).ncol = 0 := rfl
@[simp] theorem unitsAtRest_ist (s : State) : (unitsAtRest s).ist = .idle := rfl
@[simp] theorem unitsAtRest_tick (s : State) : (unitsAtRest s).tick = s.tick := rfl
@[simp] theorem unitsAtRest_dur (s : State) : (unitsAtRest s).dur = 0#8 := rfl
@[simp] theorem unitsAtRest_shreg (s : State) : (unitsAtRest s).shreg = s.shreg := rfl
@[simp] theorem unitsAtRest_nrx (s : State) : (unitsAtRest s).nrx = s.nrx := rfl
@[simp] theorem unitsAtRest_rspValid (s : State) : (unitsAtRest s).rspValid = s.rspValid := rfl
@[simp] theorem unitsAtRest_rspOk (s : State) : (unitsAtRest s).rspOk = s.rspOk := rfl
@[simp] theorem unitsAtRest_rspCmd (s : State) : (unitsAtRest s).rspCmd = s.rspCmd := rfl
@[simp] theorem unitsAtRest_irPrev (s : State) : (unitsAtRest s).irPrev = s.irPrev := rfl
@[simp] theorem unitsAtRest_wake (s : State) : (unitsAtRest s).wake = s.wake := rfl

end Sys2Proof.Machine
end

