-- ==== Sys2Proof/Laws/Ops.lean ====
section
/-! SUPPORT. What the shared operations and one step can do: one lemma each, cited instead of
unfolding. -/

namespace Sys2Proof.Machine

/-! ## Accepting a command -/

@[simp] theorem onAccept_of_canAccept {s : State} (h : s.canAccept = true) (t : State) :
    onAccept s t = .next t := by simp [onAccept, h]

@[simp] theorem onAccept_of_not_canAccept {s : State} (h : s.canAccept = false) (t : State) :
    onAccept s t = .next s := by simp [onAccept, h]

/-- Everything `onAccept` can do. -/
theorem onAccept_eq_next {s t u : State} (h : onAccept s t = .next u) :
    (s.canAccept = true ∧ u = t) ∨ (s.canAccept = false ∧ u = s) := by
  cases hc : s.canAccept <;> simp_all

/-- Accepting needs both units idle and no reset (R22, R23). -/
theorem canAccept_iff {s : State} :
    s.canAccept = true ↔ s.phase = .idle ∧ s.ist = .idle ∧ s.pins.rst = false := by
  simp [State.canAccept, State.cmdReady, and_assoc]

/-- `fire` (R23). -/
theorem fire_iff {s : State} :
    s.fire = true ↔ s.pins.cmdValid = true ∧ s.phase = .idle ∧ s.ist = .idle ∧ s.pins.rst = false := by
  simp [State.fire, canAccept_iff]

theorem cmdReady_iff {s : State} : s.cmdReady = true ↔ s.phase = .idle ∧ s.ist = .idle := by
  simp [State.cmdReady]

@[simp] theorem clearPulse_canAccept (s : State) : s.clearPulse.canAccept = s.canAccept := rfl

/-- A command always has a next state (R190). -/
theorem exec_next (i : Instr) (s : State) : ∃ t, exec i s = .next t := by
  cases hc : s.canAccept <;> cases i <;>
    simp [exec, execSendch, execWrcolor, execClear, execLatch, execIrpoll, hc]

/-- A word on the port always has a next state (R77, R190). -/
theorem acceptWord_next (w : CmdWord) (s : State) : ∃ t, acceptWord w s = .next t := by
  unfold acceptWord
  split
  · exact exec_next _ _
  · exact ⟨s, rfl⟩

/-! ## Time and the end of a cycle: every register but those of R37 stays -/

@[simp] theorem nextCycle_params (s : State) : (nextCycle s).params = s.params := by
  unfold nextCycle; split <;> rfl
@[simp] theorem nextCycle_dout (s : State) : (nextCycle s).dout = s.dout := by
  unfold nextCycle; split <;> rfl
@[simp] theorem nextCycle_phase (s : State) : (nextCycle s).phase = s.phase := by
  unfold nextCycle; split <;> rfl
@[simp] theorem nextCycle_cnt (s : State) : (nextCycle s).cnt = s.cnt := by
  unfold nextCycle; split <;> rfl
@[simp] theorem nextCycle_sr (s : State) : (nextCycle s).sr = s.sr := by
  unfold nextCycle; split <;> rfl
@[simp] theorem nextCycle_nbits (s : State) : (nextCycle s).nbits = s.nbits := by
  unfold nextCycle; split <;> rfl
@[simp] theorem nextCycle_chbuf0 (s : State) : (nextCycle s).chbuf0 = s.chbuf0 := by
  unfold nextCycle; split <;> rfl
@[simp] theorem nextCycle_chbuf1 (s : State) : (nextCycle s).chbuf1 = s.chbuf1 := by
  unfold nextCycle; split <;> rfl
@[simp] theorem nextCycle_chbuf2 (s : State) : (nextCycle s).chbuf2 = s.chbuf2 := by
  unfold nextCycle; split <;> rfl
@[simp] theorem nextCycle_nch (s : State) : (nextCycle s).nch = s.nch := by
  unfold nextCycle; split <;> rfl
@[simp] theorem nextCycle_ncol (s : State) : (nextCycle s).ncol = s.ncol := by
  unfold nextCycle; split <;> rfl
@[simp] theorem nextCycle_ist (s : State) : (nextCycle s).ist = s.ist := by
  unfold nextCycle; split <;> rfl
@[simp] theorem nextCycle_tick (s : State) : (nextCycle s).tick = s.tick := by
  unfold nextCycle; split <;> rfl
@[simp] theorem nextCycle_dur (s : State) : (nextCycle s).dur = s.dur := by
  unfold nextCycle; split <;> rfl
@[simp] theorem nextCycle_shreg (s : State) : (nextCycle s).shreg = s.shreg := by
  unfold nextCycle; split <;> rfl
@[simp] theorem nextCycle_nrx (s : State) : (nextCycle s).nrx = s.nrx := by
  unfold nextCycle; split <;> rfl
@[simp] theorem nextCycle_rspValid (s : State) : (nextCycle s).rspValid = s.rspValid := by
  unfold nextCycle; split <;> rfl
@[simp] theorem nextCycle_rspOk (s : State) : (nextCycle s).rspOk = s.rspOk := by
  unfold nextCycle; split <;> rfl
@[simp] theorem nextCycle_rspCmd (s : State) : (nextCycle s).rspCmd = s.rspCmd := by
  unfold nextCycle; split <;> rfl
@[simp] theorem nextCycle_irPrev (s : State) : (nextCycle s).irPrev = s.irPrev := by
  unfold nextCycle; split <;> rfl
@[simp] theorem nextCycle_wake (s : State) : (nextCycle s).wake = s.wake := by
  unfold nextCycle; split <;> rfl

@[simp] theorem nextCycle_cycle (s : State) : (nextCycle s).cycle = s.cycle + 1 := by
  unfold nextCycle; split <;> rfl

theorem nextCycle_pins_cons {s : State} {p : Pins} {ps : List Pins} (h : s.feed = p :: ps) :
    (nextCycle s).pins = p ∧ (nextCycle s).feed = ps := by simp [nextCycle, h]

@[simp] theorem endCycle_params (s : State) : (endCycle s).params = s.params := by
  simp [endCycle]
@[simp] theorem endCycle_dout (s : State) : (endCycle s).dout = s.dout := by
  simp [endCycle]
@[simp] theorem endCycle_phase (s : State) : (endCycle s).phase = s.phase := by
  simp [endCycle]
@[simp] theorem endCycle_cnt (s : State) : (endCycle s).cnt = s.cnt := by
  simp [endCycle]
@[simp] theorem endCycle_sr (s : State) : (endCycle s).sr = s.sr := by
  simp [endCycle]
@[simp] theorem endCycle_nbits (s : State) : (endCycle s).nbits = s.nbits := by
  simp [endCycle]
@[simp] theorem endCycle_chbuf0 (s : State) : (endCycle s).chbuf0 = s.chbuf0 := by
  simp [endCycle]
@[simp] theorem endCycle_chbuf1 (s : State) : (endCycle s).chbuf1 = s.chbuf1 := by
  simp [endCycle]
@[simp] theorem endCycle_chbuf2 (s : State) : (endCycle s).chbuf2 = s.chbuf2 := by
  simp [endCycle]
@[simp] theorem endCycle_nch (s : State) : (endCycle s).nch = s.nch := by
  simp [endCycle]
@[simp] theorem endCycle_ncol (s : State) : (endCycle s).ncol = s.ncol := by
  simp [endCycle]
@[simp] theorem endCycle_ist (s : State) : (endCycle s).ist = s.ist := by
  simp [endCycle]
@[simp] theorem endCycle_tick (s : State) : (endCycle s).tick = s.tick := by
  simp [endCycle]
@[simp] theorem endCycle_dur (s : State) : (endCycle s).dur = s.dur := by
  simp [endCycle]
@[simp] theorem endCycle_shreg (s : State) : (endCycle s).shreg = s.shreg := by
  simp [endCycle]
@[simp] theorem endCycle_nrx (s : State) : (endCycle s).nrx = s.nrx := by
  simp [endCycle]
@[simp] theorem endCycle_rspValid (s : State) : (endCycle s).rspValid = s.rspValid := by
  simp [endCycle]
@[simp] theorem endCycle_rspOk (s : State) : (endCycle s).rspOk = s.rspOk := by
  simp [endCycle]
@[simp] theorem endCycle_rspCmd (s : State) : (endCycle s).rspCmd = s.rspCmd := by
  simp [endCycle]
@[simp] theorem endCycle_irPrev (s : State) : (endCycle s).irPrev = s.pins.irIn := by
  simp [endCycle]
@[simp] theorem endCycle_wake (s : State) : (endCycle s).wake = (s.pins.irIn != s.irPrev) := by
  simp [endCycle]

theorem endCycle_pins_cons {s : State} {p : Pins} {ps : List Pins} (h : s.feed = p :: ps) :
    (endCycle s).pins = p ∧ (endCycle s).feed = ps :=
  nextCycle_pins_cons (s := s.wakeStep) h

/-- The next input levels do not depend on the registers. -/
theorem nextCycle_inputs_congr {s t : State} (hf : s.feed = t.feed) (hc : s.cycle = t.cycle) :
    (nextCycle s).pins = (nextCycle t).pins ∧ (nextCycle s).feed = (nextCycle t).feed := by
  unfold nextCycle; rw [hf, hc]; split <;> simp

/-! ## The units write disjoint sets of registers (R21) -/

/-- The five things the PTX step does leave every other register as it is (R100). -/
theorem ptxStep_leaves (s : State) :
    ∃ d p c r n b0 b1 b2 m k, ptxStep s =
      { s with
        dout := d, phase := p, cnt := c, sr := r, nbits := n, chbuf0 := b0, chbuf1 := b1,
        chbuf2 := b2, nch := m, ncol := k } := by
  unfold ptxStep highStep lowStep latchStep endChannel startZeroColor setColorsLeft bufferChannels
    startChannel
  repeat' split
  all_goals exact ⟨_, _, _, _, _, _, _, _, _, _, rfl⟩

@[simp] theorem ptxStep_ist (s : State) : (ptxStep s).ist = s.ist := by
  obtain ⟨_, _, _, _, _, _, _, _, _, _, h⟩ := ptxStep_leaves s; rw [h]
@[simp] theorem ptxStep_tick (s : State) : (ptxStep s).tick = s.tick := by
  obtain ⟨_, _, _, _, _, _, _, _, _, _, h⟩ := ptxStep_leaves s; rw [h]
@[simp] theorem ptxStep_dur (s : State) : (ptxStep s).dur = s.dur := by
  obtain ⟨_, _, _, _, _, _, _, _, _, _, h⟩ := ptxStep_leaves s; rw [h]
@[simp] theorem ptxStep_shreg (s : State) : (ptxStep s).shreg = s.shreg := by
  obtain ⟨_, _, _, _, _, _, _, _, _, _, h⟩ := ptxStep_leaves s; rw [h]
@[simp] theorem ptxStep_nrx (s : State) : (ptxStep s).nrx = s.nrx := by
  obtain ⟨_, _, _, _, _, _, _, _, _, _, h⟩ := ptxStep_leaves s; rw [h]
@[simp] theorem ptxStep_rspValid (s : State) : (ptxStep s).rspValid = s.rspValid := by
  obtain ⟨_, _, _, _, _, _, _, _, _, _, h⟩ := ptxStep_leaves s; rw [h]
@[simp] theorem ptxStep_rspOk (s : State) : (ptxStep s).rspOk = s.rspOk := by
  obtain ⟨_, _, _, _, _, _, _, _, _, _, h⟩ := ptxStep_leaves s; rw [h]
@[simp] theorem ptxStep_rspCmd (s : State) : (ptxStep s).rspCmd = s.rspCmd := by
  obtain ⟨_, _, _, _, _, _, _, _, _, _, h⟩ := ptxStep_leaves s; rw [h]
@[simp] theorem ptxStep_params (s : State) : (ptxStep s).params = s.params := by
  obtain ⟨_, _, _, _, _, _, _, _, _, _, h⟩ := ptxStep_leaves s; rw [h]
@[simp] theorem ptxStep_cycle (s : State) : (ptxStep s).cycle = s.cycle := by
  obtain ⟨_, _, _, _, _, _, _, _, _, _, h⟩ := ptxStep_leaves s; rw [h]
@[simp] theorem ptxStep_pins (s : State) : (ptxStep s).pins = s.pins := by
  obtain ⟨_, _, _, _, _, _, _, _, _, _, h⟩ := ptxStep_leaves s; rw [h]
@[simp] theorem ptxStep_feed (s : State) : (ptxStep s).feed = s.feed := by
  obtain ⟨_, _, _, _, _, _, _, _, _, _, h⟩ := ptxStep_leaves s; rw [h]
@[simp] theorem ptxStep_irPrev (s : State) : (ptxStep s).irPrev = s.irPrev := by
  obtain ⟨_, _, _, _, _, _, _, _, _, _, h⟩ := ptxStep_leaves s; rw [h]
@[simp] theorem ptxStep_wake (s : State) : (ptxStep s).wake = s.wake := by
  obtain ⟨_, _, _, _, _, _, _, _, _, _, h⟩ := ptxStep_leaves s; rw [h]

/-- A sample writes the IRD and response registers only (R140). -/
theorem takeSample_leaves (x : Level) (s : State) :
    ∃ i d r n v o c, takeSample x s =
      { s with
        ist := i, dur := d, shreg := r, nrx := n, rspValid := v, rspOk := o, rspCmd := c } := by
  unfold takeSample applyVerdict
  split <;> exact ⟨_, _, _, _, _, _, _, rfl⟩

/-- The IRD step writes the IRD and response registers only (R140). -/
theorem irdStep_leaves (s : State) :
    ∃ i k d r n v o c, irdStep s =
      { s with
        ist := i, tick := k, dur := d, shreg := r, nrx := n, rspValid := v, rspOk := o,
        rspCmd := c } := by
  unfold irdStep
  split
  · exact ⟨_, _, _, _, _, _, _, _, rfl⟩
  all_goals
    split
    · exact ⟨_, _, _, _, _, _, _, _, rfl⟩
    · obtain ⟨i, d, r, n, v, o, c, h⟩ :=
        takeSample_leaves s.pins.irIn { s with tick := s.params.tickDiv - 1 }
      exact ⟨i, _, d, r, n, v, o, c, h⟩

@[simp] theorem takeSample_dout (x : Level) (s : State) : (takeSample x s).dout = s.dout := by
  obtain ⟨_, _, _, _, _, _, _, h⟩ := takeSample_leaves x s; rw [h]
@[simp] theorem takeSample_phase (x : Level) (s : State) : (takeSample x s).phase = s.phase := by
  obtain ⟨_, _, _, _, _, _, _, h⟩ := takeSample_leaves x s; rw [h]
@[simp] theorem takeSample_cnt (x : Level) (s : State) : (takeSample x s).cnt = s.cnt := by
  obtain ⟨_, _, _, _, _, _, _, h⟩ := takeSample_leaves x s; rw [h]
@[simp] theorem takeSample_sr (x : Level) (s : State) : (takeSample x s).sr = s.sr := by
  obtain ⟨_, _, _, _, _, _, _, h⟩ := takeSample_leaves x s; rw [h]
@[simp] theorem takeSample_nbits (x : Level) (s : State) : (takeSample x s).nbits = s.nbits := by
  obtain ⟨_, _, _, _, _, _, _, h⟩ := takeSample_leaves x s; rw [h]
@[simp] theorem takeSample_chbuf0 (x : Level) (s : State) : (takeSample x s).chbuf0 = s.chbuf0 := by
  obtain ⟨_, _, _, _, _, _, _, h⟩ := takeSample_leaves x s; rw [h]
@[simp] theorem takeSample_chbuf1 (x : Level) (s : State) : (takeSample x s).chbuf1 = s.chbuf1 := by
  obtain ⟨_, _, _, _, _, _, _, h⟩ := takeSample_leaves x s; rw [h]
@[simp] theorem takeSample_chbuf2 (x : Level) (s : State) : (takeSample x s).chbuf2 = s.chbuf2 := by
  obtain ⟨_, _, _, _, _, _, _, h⟩ := takeSample_leaves x s; rw [h]
@[simp] theorem takeSample_nch (x : Level) (s : State) : (takeSample x s).nch = s.nch := by
  obtain ⟨_, _, _, _, _, _, _, h⟩ := takeSample_leaves x s; rw [h]
@[simp] theorem takeSample_ncol (x : Level) (s : State) : (takeSample x s).ncol = s.ncol := by
  obtain ⟨_, _, _, _, _, _, _, h⟩ := takeSample_leaves x s; rw [h]
@[simp] theorem takeSample_params (x : Level) (s : State) : (takeSample x s).params = s.params := by
  obtain ⟨_, _, _, _, _, _, _, h⟩ := takeSample_leaves x s; rw [h]
@[simp] theorem takeSample_cycle (x : Level) (s : State) : (takeSample x s).cycle = s.cycle := by
  obtain ⟨_, _, _, _, _, _, _, h⟩ := takeSample_leaves x s; rw [h]
@[simp] theorem takeSample_pins (x : Level) (s : State) : (takeSample x s).pins = s.pins := by
  obtain ⟨_, _, _, _, _, _, _, h⟩ := takeSample_leaves x s; rw [h]
@[simp] theorem takeSample_feed (x : Level) (s : State) : (takeSample x s).feed = s.feed := by
  obtain ⟨_, _, _, _, _, _, _, h⟩ := takeSample_leaves x s; rw [h]
@[simp] theorem takeSample_irPrev (x : Level) (s : State) : (takeSample x s).irPrev = s.irPrev := by
  obtain ⟨_, _, _, _, _, _, _, h⟩ := takeSample_leaves x s; rw [h]
@[simp] theorem takeSample_wake (x : Level) (s : State) : (takeSample x s).wake = s.wake := by
  obtain ⟨_, _, _, _, _, _, _, h⟩ := takeSample_leaves x s; rw [h]
@[simp] theorem takeSample_tick (x : Level) (s : State) : (takeSample x s).tick = s.tick := by
  obtain ⟨_, _, _, _, _, _, _, h⟩ := takeSample_leaves x s; rw [h]

@[simp] theorem irdStep_dout (s : State) : (irdStep s).dout = s.dout := by
  obtain ⟨_, _, _, _, _, _, _, _, h⟩ := irdStep_leaves s; rw [h]
@[simp] theorem irdStep_phase (s : State) : (irdStep s).phase = s.phase := by
  obtain ⟨_, _, _, _, _, _, _, _, h⟩ := irdStep_leaves s; rw [h]
@[simp] theorem irdStep_cnt (s : State) : (irdStep s).cnt = s.cnt := by
  obtain ⟨_, _, _, _, _, _, _, _, h⟩ := irdStep_leaves s; rw [h]
@[simp] theorem irdStep_sr (s : State) : (irdStep s).sr = s.sr := by
  obtain ⟨_, _, _, _, _, _, _, _, h⟩ := irdStep_leaves s; rw [h]
@[simp] theorem irdStep_nbits (s : State) : (irdStep s).nbits = s.nbits := by
  obtain ⟨_, _, _, _, _, _, _, _, h⟩ := irdStep_leaves s; rw [h]
@[simp] theorem irdStep_chbuf0 (s : State) : (irdStep s).chbuf0 = s.chbuf0 := by
  obtain ⟨_, _, _, _, _, _, _, _, h⟩ := irdStep_leaves s; rw [h]
@[simp] theorem irdStep_chbuf1 (s : State) : (irdStep s).chbuf1 = s.chbuf1 := by
  obtain ⟨_, _, _, _, _, _, _, _, h⟩ := irdStep_leaves s; rw [h]
@[simp] theorem irdStep_chbuf2 (s : State) : (irdStep s).chbuf2 = s.chbuf2 := by
  obtain ⟨_, _, _, _, _, _, _, _, h⟩ := irdStep_leaves s; rw [h]
@[simp] theorem irdStep_nch (s : State) : (irdStep s).nch = s.nch := by
  obtain ⟨_, _, _, _, _, _, _, _, h⟩ := irdStep_leaves s; rw [h]
@[simp] theorem irdStep_ncol (s : State) : (irdStep s).ncol = s.ncol := by
  obtain ⟨_, _, _, _, _, _, _, _, h⟩ := irdStep_leaves s; rw [h]
@[simp] theorem irdStep_params (s : State) : (irdStep s).params = s.params := by
  obtain ⟨_, _, _, _, _, _, _, _, h⟩ := irdStep_leaves s; rw [h]
@[simp] theorem irdStep_cycle (s : State) : (irdStep s).cycle = s.cycle := by
  obtain ⟨_, _, _, _, _, _, _, _, h⟩ := irdStep_leaves s; rw [h]
@[simp] theorem irdStep_pins (s : State) : (irdStep s).pins = s.pins := by
  obtain ⟨_, _, _, _, _, _, _, _, h⟩ := irdStep_leaves s; rw [h]
@[simp] theorem irdStep_feed (s : State) : (irdStep s).feed = s.feed := by
  obtain ⟨_, _, _, _, _, _, _, _, h⟩ := irdStep_leaves s; rw [h]
@[simp] theorem irdStep_irPrev (s : State) : (irdStep s).irPrev = s.irPrev := by
  obtain ⟨_, _, _, _, _, _, _, _, h⟩ := irdStep_leaves s; rw [h]
@[simp] theorem irdStep_wake (s : State) : (irdStep s).wake = s.wake := by
  obtain ⟨_, _, _, _, _, _, _, _, h⟩ := irdStep_leaves s; rw [h]

@[simp] theorem irdStep_of_idle {s : State} (h : s.ist = .idle) : irdStep s = s := by
  simp [irdStep, h]

theorem irdStep_of_busy {s : State} (h : s.ist ≠ .idle) :
    irdStep s =
      if s.tick ≠ 0 then { s with tick := s.tick - 1 }
      else takeSample s.pins.irIn { s with tick := s.params.tickDiv - 1 } := by
  unfold irdStep; cases hi : s.ist <;> simp_all

@[simp] theorem ptxStep_of_idle {s : State} (h : s.phase = .idle) : ptxStep s = s := by
  simp [ptxStep, h]

theorem ptxStep_of_high {s : State} (h : s.phase = .high) : ptxStep s = highStep s := by
  simp [ptxStep, h]

theorem ptxStep_of_low {s : State} (h : s.phase = .low) : ptxStep s = lowStep s := by
  simp [ptxStep, h]

theorem ptxStep_of_latch {s : State} (h : s.phase = .latch) : ptxStep s = latchStep s := by
  simp [ptxStep, h]

/-! ## One step -/

theorem step_of_reset {s : State} (hp : meetsRules s.params) (hr : s.pins.rst = true) :
    step s = .next (resetEdge s) := by
  rw [step, clockCycle, if_pos hp, if_pos hr]

theorem step_of_fire {s : State} (hp : meetsRules s.params) (hf : s.fire = true) :
    step s = endCycleOf (acceptWord s.pins.cmdWord s.clearPulse) := by
  have hr : s.pins.rst = false := (fire_iff.mp hf).2.2.2
  rw [step, clockCycle, if_pos hp, if_neg (by simp [hr]), if_pos hf]

theorem step_of_no_fire {s : State} (hp : meetsRules s.params) (hr : s.pins.rst = false)
    (hf : s.fire = false) : step s = .next (endCycle (unitsStep s.clearPulse)) := by
  rw [step, clockCycle, if_pos hp, if_neg (by simp [hr]), if_neg (by simp [hf])]

theorem step_of_bad_parameters {s : State} (hp : ¬ meetsRules s.params) :
    step s = .refused .parametersBreakRules := by
  rw [step, clockCycle, if_neg hp]

/-- A command that fires: the step is its meaning and the end of the cycle. -/
theorem step_of_fire_next {s t : State} {i : Instr} (hp : meetsRules s.params)
    (hf : s.fire = true) (hd : decode s.params.cntW s.pins.cmdWord = .ok i)
    (he : exec i s.clearPulse = .next t) : step s = .next (endCycle t) := by
  rw [step_of_fire hp hf, acceptWord]
  simp [hd, he, endCycleOf]

/-- A reserved code that fires (R77). -/
theorem step_of_fire_reserved {s : State} {r : Rejected} (hp : meetsRules s.params)
    (hf : s.fire = true) (hd : decode s.params.cntW s.pins.cmdWord = .error r) :
    step s = .next (endCycle s.clearPulse) := by
  rw [step_of_fire hp hf, acceptWord]
  simp [hd, endCycleOf]

/-- Everything one step can do. -/
theorem step_cases {s t : State} (h : step s = .next t) :
    meetsRules s.params ∧
    ((s.pins.rst = true ∧ t = resetEdge s) ∨
     (s.pins.rst = false ∧ s.fire = true ∧ ∃ i u, decode s.params.cntW s.pins.cmdWord = .ok i ∧
        exec i s.clearPulse = .next u ∧ t = endCycle u) ∨
     (s.pins.rst = false ∧ s.fire = true ∧ (∃ r, decode s.params.cntW s.pins.cmdWord = .error r) ∧
        t = endCycle s.clearPulse) ∨
     (s.pins.rst = false ∧ s.fire = false ∧ t = endCycle (unitsStep s.clearPulse))) := by
  by_cases hp : meetsRules s.params
  · refine ⟨hp, ?_⟩
    cases hr : s.pins.rst
    · cases hf : s.fire
      · rw [step_of_no_fire hp hr hf] at h
        exact .inr (.inr (.inr ⟨rfl, rfl, by simpa using h.symm⟩))
      · cases hd : decode s.params.cntW s.pins.cmdWord with
        | ok i =>
          obtain ⟨u, hu⟩ := exec_next i s.clearPulse
          rw [step_of_fire_next hp hf hd hu] at h
          exact .inr (.inl ⟨rfl, rfl, i, u, rfl, hu, by simpa using h.symm⟩)
        | error r =>
          rw [step_of_fire_reserved hp hf hd] at h
          exact .inr (.inr (.inl ⟨rfl, rfl, ⟨r, rfl⟩, by simpa using h.symm⟩))
    · rw [step_of_reset hp hr] at h
      exact .inl ⟨rfl, by simpa using h.symm⟩
  · rw [step_of_bad_parameters hp] at h
    cases h

end Sys2Proof.Machine
end

