-- ==== Sys2Proof/Laws/Line.lean ====
section
/-! SUPPORT. What a busy PTX does over runs of cycles, and what the LED string makes of runs of equal
levels: the lemmas a proof about whole waveforms cites. -/

namespace Sys2Proof.Machine

/-! ## Known inputs -/

/-- Known inputs without reset: this cycle has none, and one fewer cycle is known after the step. -/
theorem resetFree_succ {n : Nat} {s : State} (h : resetFree (n + 1) s = true) :
    s.pins.rst = false ∧
    ∀ u : State, (∀ p ps, s.feed = p :: ps → u.pins = p ∧ u.feed = ps) → resetFree n u = true := by
  simp only [resetFree, inputs, List.length_cons, List.take_succ_cons, List.all_cons,
    Bool.and_eq_true, Bool.not_eq_true'] at h
  obtain ⟨h1, h2, h3⟩ := h
  refine ⟨h2, fun u hu => ?_⟩
  cases n with
  | zero => simp [resetFree]
  | succ n =>
    cases hf : s.feed with
    | nil => simp [hf] at h1
    | cons p ps =>
      obtain ⟨e1, e2⟩ := hu p ps hf
      simp only [resetFree, inputs, e1, e2, ← hf, h3, Bool.and_true, decide_eq_true_eq]
      simpa using h1

/-- Fewer cycles of known inputs. -/
theorem resetFree_mono {m n : Nat} {s : State} (h : m ≤ n) (hr : resetFree n s = true) :
    resetFree m s = true := by
  simp only [resetFree, Bool.and_eq_true, decide_eq_true_eq] at hr ⊢
  refine ⟨by omega, ?_⟩
  rw [List.all_eq_true] at hr ⊢
  exact fun x hx => hr.2 x (List.take_subset_take_left _ h hx)

/-- A run of cycles continues where an earlier one ended. -/
theorem runCycles_add {m : Nat} (n : Nat) {s t : State} (h : runCycles m s = .next t) :
    runCycles (m + n) s = runCycles n t := by
  induction m generalizing s with
  | zero => simp [runCycles] at h; subst h; simp
  | succ m ih =>
    rw [show m + 1 + n = (m + n) + 1 by omega]
    simp only [runCycles] at h ⊢
    cases hs : step s with
    | next u => rw [hs] at h; exact ih h
    | fault r => rw [hs] at h; cases h
    | refused r => rw [hs] at h; cases h

/-! ## A busy PTX -/

theorem fire_of_phase {s : State} (h : s.phase ≠ .idle) : s.fire = false := by
  cases hf : s.fire with
  | false => rfl
  | true => exact absurd (fire_iff.mp hf).2.1 h

theorem cmdReady_of_phase {s : State} (h : s.phase ≠ .idle) : s.cmdReady = false := by
  cases hf : s.cmdReady with
  | false => rfl
  | true => exact absurd (cmdReady_iff.mp hf).1 h

/-- While IRD is idle: the parameters are `p` and the inputs of `n` cycles are known. -/
structure PtxAlone (n : Nat) (p : Params) (s : State) : Prop where
  params : s.params = p
  ist    : s.ist = .idle
  free   : resetFree n s = true

/-- One cycle of a busy PTX: its registers take the PTX step, and nothing else matters to them. -/
theorem step_of_busy_ptx {n : Nat} {s : State} {p : Params} (hp : meetsRules p)
    (hb : s.phase ≠ .idle) (hc : PtxAlone (n + 1) p s) :
    ∃ u, step s = .next u ∧ ptxRegs u = ptxRegs (ptxStep s) ∧ PtxAlone n p u := by
  obtain ⟨h1, h2, h3⟩ := hc
  obtain ⟨r1, r2⟩ := resetFree_succ h3
  have h4 : (ptxStep s.clearPulse).ist = .idle := by simp [h2]
  refine ⟨_, step_of_no_fire (by rw [h1]; exact hp) r1 (fire_of_phase hb), ?_, ?_⟩
  · simp only [unitsStep, irdStep_of_idle h4]
    unfold ptxRegs; simp
    unfold State.clearPulse ptxStep highStep lowStep latchStep endChannel startZeroColor
      setColorsLeft bufferChannels startChannel
    simp only
    split <;> (try split) <;> (try split) <;> (try split) <;> (try split) <;> simp
  · refine ⟨by simp [unitsStep, h1], by simp [unitsStep, h2], ?_⟩
    apply r2; intro q qs hq
    apply endCycle_pins_cons
    simp [unitsStep, hq]

/-- From `s` the line has the levels `w`, one a cycle, the block is not ready in any of them, and `t`
is the state of the cycle after. -/
def Sends : List Level → State → State → Prop
  | [], s, t => s = t
  | x :: xs, s, t => s.dout = x ∧ s.cmdReady = false ∧ ∃ u, step s = .next u ∧ Sends xs u t

theorem Sends.append {w w' : List Level} {s t u : State} (h : Sends w s t) (h' : Sends w' t u) :
    Sends (w ++ w') s u := by
  induction w generalizing s with
  | nil => cases h; exact h'
  | cons x xs ih =>
    obtain ⟨a, b, v, c, d⟩ := h
    exact ⟨a, b, v, c, ih d⟩

/-- `Sends` in the terms of `sendsWave`. -/
theorem Sends.trace_eq {w : List Level} {s t : State} (h : Sends w s t) :
    (trace w.length s).map State.dout = w ∧
    (trace w.length s).map State.cmdReady = List.replicate w.length false ∧
    runCycles w.length s = .next t := by
  induction w generalizing s with
  | nil => cases h; exact ⟨rfl, rfl, rfl⟩
  | cons x xs ih =>
    obtain ⟨a, b, v, c, d⟩ := h
    obtain ⟨i1, i2, i3⟩ := ih d
    simp [trace, runCycles, c, i1, i2, i3, a, b, List.replicate_succ]

/-- A HIGH phase lasts `cnt` cycles and ends as with `cnt = 1` (R105). -/
theorem highRun {p : Params} (hp : meetsRules p) (c n : Nat) {s : State} (h1 : s.phase = .high)
    (h2 : s.cnt = c + 1) (h3 : s.dout = true) (hc : PtxAlone (c + 1 + n) p s) :
    ∃ t, Sends (List.replicate (c + 1) true) s t ∧
      ptxRegs t = ptxRegs (highStep { s with cnt := 1 }) ∧ PtxAlone n p t := by
  induction c generalizing s with
  | zero =>
    obtain ⟨u, e1, e2, e3⟩ := step_of_busy_ptx (n := n) hp (s := s) (by simp [h1])
      (by rwa [show 0 + 1 + n = n + 1 by omega] at hc)
    refine ⟨u, ⟨h3, cmdReady_of_phase (by simp [h1]), u, e1, rfl⟩, ?_, e3⟩
    rw [e2, ptxStep_of_high h1]; cases s; simp at h2; subst h2; rfl
  | succ c ih =>
    obtain ⟨u, e1, e2, e3⟩ := step_of_busy_ptx (n := c + 1 + n) hp (s := s) (by simp [h1])
      (by rwa [show c + 1 + 1 + n = c + 1 + n + 1 by omega] at hc)
    rw [ptxStep_of_high h1, highStep, if_pos (by omega)] at e2
    simp [ptxRegs] at e2
    obtain ⟨q1, q2, q3, q4, q5, q6, q7, q8, q9, q10⟩ := e2
    obtain ⟨t, f1, f2, f3⟩ := ih (s := u) (by rw [q2, h1]) (by omega) (by rw [q1, h3]) e3
    refine ⟨t, ⟨h3, cmdReady_of_phase (by simp [h1]), u, e1, f1⟩, ?_, f3⟩
    rw [f2]
    simp [highStep, ptxRegs, q4, q5, q6, q7, q8, q9, q10, e3.params, hc.params]

/-- A LOW phase lasts `cnt` cycles and ends as with `cnt = 1` (R106). -/
theorem lowRun {p : Params} (hp : meetsRules p) (c n : Nat) {s : State} (h1 : s.phase = .low)
    (h2 : s.cnt = c + 1) (h3 : s.dout = false) (hc : PtxAlone (c + 1 + n) p s) :
    ∃ t, Sends (List.replicate (c + 1) false) s t ∧
      ptxRegs t = ptxRegs (lowStep { s with cnt := 1 }) ∧ PtxAlone n p t := by
  induction c generalizing s with
  | zero =>
    obtain ⟨u, e1, e2, e3⟩ := step_of_busy_ptx (n := n) hp (s := s) (by simp [h1])
      (by rwa [show 0 + 1 + n = n + 1 by omega] at hc)
    refine ⟨u, ⟨h3, cmdReady_of_phase (by simp [h1]), u, e1, rfl⟩, ?_, e3⟩
    rw [e2, ptxStep_of_low h1]; cases s; simp at h2; subst h2; rfl
  | succ c ih =>
    obtain ⟨u, e1, e2, e3⟩ := step_of_busy_ptx (n := c + 1 + n) hp (s := s) (by simp [h1])
      (by rwa [show c + 1 + 1 + n = c + 1 + n + 1 by omega] at hc)
    rw [ptxStep_of_low h1, lowStep, if_pos (by omega)] at e2
    simp [ptxRegs] at e2
    obtain ⟨q1, q2, q3, q4, q5, q6, q7, q8, q9, q10⟩ := e2
    obtain ⟨t, f1, f2, f3⟩ := ih (s := u) (by rw [q2, h1]) (by omega) (by rw [q1, h3]) e3
    refine ⟨t, ⟨h3, cmdReady_of_phase (by simp [h1]), u, e1, f1⟩, ?_, f3⟩
    rw [f2]
    simp only [lowStep, ptxRegs, q1, q2, q4, q5, q6, q7, q8, q9, q10, e3.params, hc.params,
      endChannel, bufferChannels, startChannel, startZeroColor, setColorsLeft, channelsAfterFirst]
    split
    · rfl
    split
    · rfl
    split
    · rfl
    split
    · rfl
    · rfl

/-- A LATCH lasts `cnt` cycles (R108). -/
theorem latchRun {p : Params} (hp : meetsRules p) (c n : Nat) {s : State} (h1 : s.phase = .latch)
    (h2 : s.cnt = c + 1) (h3 : s.dout = false) (hc : PtxAlone (c + 1 + n) p s) :
    ∃ t, Sends (List.replicate (c + 1) false) s t ∧ t.phase = .idle ∧ t.dout = false ∧
      PtxAlone n p t := by
  induction c generalizing s with
  | zero =>
    obtain ⟨u, e1, e2, e3⟩ := step_of_busy_ptx (n := n) hp (s := s) (by simp [h1])
      (by rwa [show 0 + 1 + n = n + 1 by omega] at hc)
    rw [ptxStep_of_latch h1, latchStep, if_neg (by omega)] at e2
    simp [ptxRegs] at e2
    exact ⟨u, ⟨h3, cmdReady_of_phase (by simp [h1]), u, e1, rfl⟩, e2.2.1, by rw [e2.1, h3], e3⟩
  | succ c ih =>
    obtain ⟨u, e1, e2, e3⟩ := step_of_busy_ptx (n := c + 1 + n) hp (s := s) (by simp [h1])
      (by rwa [show c + 1 + 1 + n = c + 1 + n + 1 by omega] at hc)
    rw [ptxStep_of_latch h1, latchStep, if_pos (by omega)] at e2
    simp [ptxRegs] at e2
    obtain ⟨t, f1, f2, f3⟩ := ih (s := u) (by rw [e2.2.1, h1]) (by omega) (by rw [e2.1, h3]) e3
    exact ⟨t, ⟨h3, cmdReady_of_phase (by simp [h1]), u, e1, f1⟩, f2, f3⟩

/-- Both HIGH times are inside the bit cycle (R7). -/
theorem highCycles_lt {p : Params} (hp : meetsRules p) (b : Bool) :
    1 ≤ highCycles p b ∧ highCycles p b < p.cyc := by
  obtain ⟨⟨_, a, b', c, _⟩, ⟨_, _, _, _, _, _, _, d, _⟩, _⟩ := hp
  cases b <;> simp [highCycles] <;> omega

/-! ## The string -/

theorem cycleInLimits_iff {p : Params} {n : Nat} :
    cycleInLimits p n = true ↔
      1150 * p.fClkHz ≤ 1000000000 * n ∧ 1000000000 * n ≤ 9000 * p.fClkHz := by
  simp only [cycleInLimits, Bool.and_eq_true, decide_eq_true_eq]

theorem isLatch_iff {p : Params} {n : Nat} :
    isLatch p n = true ↔ p.tLatchNs * p.fClkHz ≤ 1000000000 * n := by
  simp only [isLatch, decide_eq_true_eq]

theorem isLatch_eq_false_iff {p : Params} {n : Nat} :
    isLatch p n = false ↔ 1000000000 * n < p.tLatchNs * p.fClkHz := by
  rw [← Nat.not_le, ← isLatch_iff, Bool.not_eq_true]

theorem isLatch_mono {p : Params} {m n : Nat} (h : m ≤ n) (hn : isLatch p n = false) :
    isLatch p m = false := by
  rw [isLatch_eq_false_iff] at *; omega

theorem observeAll_append (p : Params) (w : LedString) (xs ys : List Level) :
    observeAll p w (xs ++ ys) = observeAll p (observeAll p w xs) ys := by
  simp [observeAll]

@[simp] theorem observeAll_nil (p : Params) (w : LedString) : observeAll p w [] = w := rfl

@[simp] theorem observeAll_cons (p : Params) (w : LedString) (x : Level) (xs : List Level) :
    observeAll p w (x :: xs) = observeAll p (observe p w x) xs := rfl

/-- More HIGH cycles, not more than a bit's. -/
theorem observeAll_high (p : Params) (n : Nat) {w : LedString} {k : Nat} (h : w.line = .high k)
    (hn : 1000000000 * (k + n) ≤ 8500 * p.fClkHz) :
    observeAll p w (List.replicate n true) = { w with line := .high (k + n) } := by
  induction n generalizing w k with
  | zero => simp [← h]
  | succ n ih =>
    have hk : 1000000000 * (k + 1) ≤ 8500 * p.fClkHz := by omega
    rw [List.replicate_succ, observeAll_cons,
      show observe p w true = { w with line := .high (k + 1) } by simp [observe, h, highCycle, hk],
      ih (k := k + 1) rfl (by omega)]
    rw [show k + 1 + n = k + (n + 1) by omega]

/-- More LOW cycles, no latch yet. -/
theorem observeAll_low (p : Params) (n : Nat) {w : LedString} {a : Option Nat} {k : Nat}
    (h : w.line = .low a k) (hn : isLatch p (k + n) = false) :
    observeAll p w (List.replicate n false) = { w with line := .low a (k + n) } := by
  induction n generalizing w k with
  | zero => simp [← h]
  | succ n ih =>
    rw [List.replicate_succ, observeAll_cons,
      show observe p w false = { w with line := .low a (k + 1) } by
        simp [observe, h, lowCycle, isLatch_mono (show k + 1 ≤ k + (n + 1) by omega) hn],
      ih (k := k + 1) rfl (by rwa [show k + 1 + n = k + (n + 1) by omega])]
    rw [show k + 1 + n = k + (n + 1) by omega]

end Sys2Proof.Machine
end

