-- ==== Sys2Proof/Laws/Host.lean ====
section
/-! SUPPORT. What the parts of a host cycle can do, and what a corrupt mark does at the string: the
lemmas a proof about the host or the display cites. -/

namespace Sys2Proof.Machine

/-! ## The string's corrupt mark -/

@[simp] theorem markCorrupt_line (w : LedString) : (markCorrupt w).line = w.line := rfl
@[simp] theorem markCorrupt_bits (w : LedString) : (markCorrupt w).bits = w.bits := rfl
@[simp] theorem markCorrupt_corrupt (w : LedString) : (markCorrupt w).corrupt = true := rfl
@[simp] theorem markCorrupt_shown (w : LedString) : (markCorrupt w).shown = [] := rfl

/-- Nothing is known of the display in a corrupt frame (R121). -/
theorem display_of_corrupt {p : Params} {w : LedString} (h : w.corrupt = true) :
    w.display p = [] := by
  simp [LedString.display, h]

/-- What is known of the display is what the last completed frame left, or nothing. -/
theorem display_of_shown_nil {p : Params} {w : LedString} (h : w.shown = []) :
    w.display p = [] := by
  simp [LedString.display, h]

/-- Once latched and not corrupt, the display is the completed frame (R120). -/
theorem display_of_latched {p : Params} {w : LedString} (h : w.line = .latched)
    (hc : w.corrupt = false) : w.display p = w.shown := by
  simp [LedString.display, runInLimits, h, hc]

/-- A bit received keeps the mark and the display, or sets the one and clears the other. -/
theorem receiveHigh_cases (p : Params) (high : Nat) (w : LedString) :
    (∃ b, receiveHigh p high w = { w with bits := w.bits ++ [b] }) ∨
      receiveHigh p high w = markCorrupt w := by
  unfold receiveHigh
  cases receivedBit p high with
  | some b => exact .inl ⟨b, rfl⟩
  | none   => exact .inr rfl

/-- A HIGH run that is no bit's marks the frame (R121, U1). -/
theorem receiveHigh_of_none {p : Params} {high : Nat} (h : receivedBit p high = none)
    (w : LedString) : receiveHigh p high w = markCorrupt w := by
  simp [receiveHigh, h]

/-- A rising edge leaves the string as it is or marks the frame. -/
theorem closeBit_cases (p : Params) (after : Option Nat) (low : Nat) (w : LedString) :
    closeBit p after low w = w ∨ closeBit p after low w = markCorrupt w := by
  unfold closeBit
  cases after with
  | none => exact .inl rfl
  | some high =>
    simp only
    split
    · exact .inl rfl
    · exact .inr rfl

@[simp] theorem latchFrame_line (p : Params) (w : LedString) : (latchFrame p w).line = .latched := rfl
@[simp] theorem latchFrame_bits (p : Params) (w : LedString) : (latchFrame p w).bits = [] := rfl
@[simp] theorem latchFrame_corrupt (p : Params) (w : LedString) :
    (latchFrame p w).corrupt = false := rfl

/-- Of a corrupt frame nothing is known after its latch (R121). -/
theorem latchFrame_shown_of_corrupt {p : Params} {w : LedString} (h : w.corrupt = true) :
    (latchFrame p w).shown = [] := by
  simp [latchFrame, h]

/-- A HIGH cycle only lengthens the run, or marks the frame as well. -/
theorem highCycle_cases (p : Params) (n : Nat) (w : LedString) :
    highCycle p n w = { w with line := .high n } ∨
      highCycle p n w = { markCorrupt w with line := .high n } := by
  unfold highCycle
  split
  · exact .inl rfl
  · exact .inr rfl

/-- A LOW cycle only lengthens the run, or latches. -/
theorem lowCycle_cases (p : Params) (after : Option Nat) (n : Nat) (w : LedString) :
    lowCycle p after n w = { w with line := .low after n } ∨
      lowCycle p after n w = latchFrame p w := by
  unfold lowCycle
  split
  · exact .inr rfl
  · exact .inl rfl

/-- One cycle at the string: the run goes on or a bit is closed, mark and display as they are; or the
frame is marked; or it is latched, as it is, with a last bit, or marked. -/
theorem observe_cases (p : Params) (w : LedString) (x : Level) :
    (∃ l bs, observe p w x = { w with line := l, bits := bs }) ∨
    (∃ l, observe p w x = { markCorrupt w with line := l }) ∨
    (∃ bs, observe p w x = latchFrame p { w with bits := bs }) ∨
    observe p w x = latchFrame p (markCorrupt w) := by
  cases hl : w.line with
  | high n =>
    cases x with
    | true =>
      rw [show observe p w true = highCycle p (n + 1) w by simp [observe, hl]]
      obtain h | h := highCycle_cases p (n + 1) w
      · exact .inl ⟨_, w.bits, h⟩
      · exact .inr (.inl ⟨_, h⟩)
    | false =>
      rw [show observe p w false = lowCycle p (some n) 1 (receiveHigh p n w) by simp [observe, hl]]
      obtain ⟨b, e⟩ | e := receiveHigh_cases p n w <;> rw [e]
      · obtain h | h := lowCycle_cases p (some n) 1 { w with bits := w.bits ++ [b] }
        · exact .inl ⟨_, _, h⟩
        · exact .inr (.inr (.inl ⟨_, h⟩))
      · obtain h | h := lowCycle_cases p (some n) 1 (markCorrupt w)
        · exact .inr (.inl ⟨_, h⟩)
        · exact .inr (.inr (.inr h))
  | low a n =>
    cases x with
    | true =>
      rw [show observe p w true = highCycle p 1 (closeBit p a n w) by simp [observe, hl]]
      obtain e | e := closeBit_cases p a n w <;> rw [e]
      · obtain h | h := highCycle_cases p 1 w
        · exact .inl ⟨_, w.bits, h⟩
        · exact .inr (.inl ⟨_, h⟩)
      · obtain h | h := highCycle_cases p 1 (markCorrupt w) <;> exact .inr (.inl ⟨_, h⟩)
    | false =>
      rw [show observe p w false = lowCycle p a (n + 1) w by simp [observe, hl]]
      obtain h | h := lowCycle_cases p a (n + 1) w
      · exact .inl ⟨_, w.bits, h⟩
      · exact .inr (.inr (.inl ⟨w.bits, h⟩))
  | latched =>
    cases x with
    | true =>
      rw [show observe p w true = highCycle p 1 w by simp [observe, hl]]
      obtain h | h := highCycle_cases p 1 w
      · exact .inl ⟨_, w.bits, h⟩
      · exact .inr (.inl ⟨_, h⟩)
    | false => exact .inl ⟨w.line, w.bits, by rw [show observe p w false = w by simp [observe, hl]]⟩

/-! ## The host -/

@[simp] theorem goTo_place (q : HostPlace) (h : HostState) : (goTo q h).place = q := rfl
@[simp] theorem goTo_idle (q : HostPlace) (h : HostState) : (goTo q h).idle = 0 := rfl
@[simp] theorem goTo_spent (q : HostPlace) (h : HostState) : (goTo q h).spent = h.spent := rfl
@[simp] theorem goTo_start (q : HostPlace) (h : HostState) : (goTo q h).start = h.start := rfl
@[simp] theorem goTo_speed (q : HostPlace) (h : HostState) : (goTo q h).speed = h.speed := rfl
@[simp] theorem goTo_density (q : HostPlace) (h : HostState) : (goTo q h).density = h.density := rfl

@[simp] theorem passTime_place (h : HostState) : (passTime h).place = h.place := by
  unfold passTime; split <;> rfl
@[simp] theorem passTime_idle (h : HostState) : (passTime h).idle = h.idle := by
  unfold passTime; split <;> rfl
@[simp] theorem passTime_start (h : HostState) : (passTime h).start = h.start := by
  unfold passTime; split <;> rfl
@[simp] theorem passTime_speed (h : HostState) : (passTime h).speed = h.speed := by
  unfold passTime; split <;> rfl
@[simp] theorem passTime_density (h : HostState) : (passTime h).density = h.density := by
  unfold passTime; split <;> rfl

/-- The cycle of a host that resets the block (R188, R212 (1), (5)). -/
theorem hostCycle_of_resetting {hp : HostParams} {p : Params} {c : HostChoice} {o : Outputs}
    {h : HostState} (e : h.place = .resetting) :
    hostCycle hp p c o h =
      { host := if c.holdReset then h else goTo (.issuing [.latch] .loop false) h
        rst := true, command := none } := by
  simp [hostCycle, e]

/-- The cycle of any other host. -/
theorem hostCycle_of_running {hp : HostParams} {p : Params} {c : HostChoice} {o : Outputs}
    {h : HostState} (e : h.place ≠ .resetting) :
    hostCycle hp p c o h = hostIssue p c o (hostTurn hp (hostObserve hp p.cntW o (passTime h))) := by
  simp [hostCycle, e]

/-- Issuing never resets the block, and either issues nothing, the host as it is but for `idle`, or
issues its next command in a ready cycle and goes to the place after it. -/
theorem hostIssue_cases (p : Params) (c : HostChoice) (o : Outputs) (h : HostState) :
    (∃ n, hostIssue p c o h = { host := { h with idle := n }, rst := false, command := none }) ∨
    ∃ i q, nextCommand h = some (i, q) ∧ o.cmdReady = true ∧
      hostIssue p c o h = { host := goTo q h, rst := false, command := some i } := by
  unfold hostIssue
  cases hn : nextCommand h with
  | none => exact .inl ⟨h.idle, rfl⟩
  | some iq =>
    obtain ⟨i, q⟩ := iq
    simp only
    cases hr : o.cmdReady with
    | false => exact .inl ⟨h.idle, by simp⟩
    | true =>
      by_cases ha : (c.acts || mustAct p h) = true
      · exact .inr ⟨i, q, rfl, rfl, by simp [ha]⟩
      · exact .inl ⟨h.idle + 1, by simp [ha]⟩

/-- The host turns to the next frame from its poll slice only. -/
theorem hostTurn_of_ne {hp : HostParams} {h : HostState}
    (e : h.place ≠ .slice true) : hostTurn hp h = h := by
  unfold hostTurn
  split
  · next h1 => exact absurd h1 e
  all_goals rfl

/-- A host with a command to issue, in its slice, resetting or woken reads no output (R219, R224). -/
theorem hostObserve_of_next {hp : HostParams} {cw : CntWidth} {o : Outputs} {h : HostState}
    (e : nextCommand h ≠ none) : hostObserve hp cw o h = h := by
  unfold hostObserve
  unfold nextCommand at e
  split <;> first | rfl | (next h1 => simp [h1] at e)

/-- The four codes are four codes (R183). -/
theorem codes_ne {hp : HostParams} (h : hostMeetsRules hp) :
    hp.cmdBright ≠ hp.cmdPower ∧ hp.cmdSpeed ≠ hp.cmdPower ∧ hp.cmdSpeed ≠ hp.cmdBright ∧
      hp.cmdDensity ≠ hp.cmdPower ∧ hp.cmdDensity ≠ hp.cmdBright ∧ hp.cmdDensity ≠ hp.cmdSpeed := by
  have := h.1
  simp only [List.nodup_cons, List.mem_cons, List.not_mem_nil, not_or, or_false] at this
  obtain ⟨⟨a, b, c⟩, ⟨d, e⟩, f, -⟩ := this
  exact ⟨Ne.symm a, Ne.symm b, Ne.symm d, Ne.symm c, Ne.symm e, Ne.symm f⟩

end Sys2Proof.Machine
end

