-- ==== Sys2Proof/Laws/PerInstr.lean ====
section
/-! SUPPORT. Facts about every instruction as syntax, one lemma per constructor. -/

namespace Sys2Proof.Laws.UsedBits

/-- The word of a well-formed instruction has 1s only in bits its row does not ignore (R71). -/
def Statement (i : Instr) : Prop :=
  ∀ cw : CntWidth, wellFormed cw i = true → encode i &&& usedBits cw i = encode i

/-- It is enough that the operand field does. -/
theorem of_operand {i : Instr}
    (h : ∀ cw, wellFormed cw i = true → operandField i &&& operandMask cw i = operandField i) :
    Statement i := by
  intro cw hw
  rw [and_usedBits, opField_encode, argField_encode, h cw hw, encode]

theorem sendch (value : Byte) : Statement (.sendch value) :=
  of_operand fun _ _ => by
    have h : ∀ v : Byte, (0#24 ++ v) &&& 0x000000FF#32 = 0#24 ++ v := by decide
    exact h value

theorem wrcolor (r g b w : Byte) : Statement (.wrcolor r g b w) :=
  of_operand fun _ _ => BitVec.and_allOnes

theorem clear (n : Nat) : Statement (.clear n) :=
  of_operand fun cw h => by
    simp only [wellFormed, decide_eq_true_eq] at h
    simp only [operandField, operandMask]
    apply BitVec.eq_of_toNat_eq
    rw [BitVec.toNat_and, BitVec.toNat_ofNat, BitVec.toNat_ofNat,
      Nat.mod_eq_of_lt (a := 2 ^ cw.bits - 1) (by cases cw <;> decide), Nat.and_two_pow_sub_one_eq_mod]
    refine Nat.mod_eq_of_lt (lt_of_le_of_lt (Nat.mod_le _ _) h)

theorem latch : Statement .latch := of_operand fun _ _ => BitVec.zero_and

theorem irpoll : Statement .irpoll := of_operand fun _ _ => BitVec.zero_and

end Sys2Proof.Laws.UsedBits
end

