-- ==== Sys2Proof/Laws/Samples.lean ====
section
/-! SUPPORT. What runs of equal samples do to a decode (R145 to R154): the lemmas a proof about whole
sample streams cites. -/

namespace Sys2Proof.Machine

/-- The level a measuring state expects (R145, table). -/
def levelOf : IrState → Level
  | .idle | .leadSpace | .bitSpace => true
  | .leadMark | .bitMark | .trailMark => false

/-- The upper limit of a measuring state (R145, table). -/
def limitOf (p : Params) : IrState → Nat
  | .idle                => 0
  | .leadMark            => p.leadMark.hi
  | .leadSpace           => p.leadSpace.hi
  | .bitMark | .trailMark => p.bitMark.hi
  | .bitSpace            => p.oneSpace.hi

/-- Every limit is at most 254 (R8), so a count below it has room (R148). -/
theorem limitOf_le {p : Params} (h : meetsRules p) (i : IrState) : limitOf p i ≤ 254 := by
  obtain ⟨⟨_, _, _, _, _, _, ⟨_, _, _⟩, ⟨_, _, _⟩, ⟨_, _, _⟩, ⟨_, _, _⟩, ⟨_, _, _⟩, _⟩, _⟩ := h
  cases i <;> simp only [limitOf] <;> omega

/-- A sample at the expected level below the limit counts (R147). -/
theorem takeSample_counts {s : State} (hi : s.ist ≠ .idle)
    (hd : s.dur.toNat < limitOf s.params s.ist) :
    takeSample (levelOf s.ist) s = { s with dur := s.dur + 1#8 } := by
  cases h : s.ist <;> simp_all [takeSample, verdict, levelOf, limitOf, persists, applyVerdict] <;>
    rw [if_neg (by omega)]

/-- A sample at the expected level at the limit aborts (R147). -/
theorem takeSample_aborts {s : State} (hi : s.ist ≠ .idle)
    (hd : limitOf s.params s.ist ≤ s.dur.toNat) :
    takeSample (levelOf s.ist) s = abortDecode s := by
  cases h : s.ist <;> simp_all [takeSample, verdict, levelOf, limitOf, persists, applyVerdict]

@[simp] theorem sampleAll_nil (s : State) : sampleAll [] s = s := rfl

theorem sampleAll_append (xs ys : List Level) (s : State) :
    sampleAll (xs ++ ys) s = sampleAll ys (sampleAll xs s) := by
  simp [sampleAll, List.foldl_append]

/-- Nothing is sampled once the decode has ended (R154). -/
theorem sampleAll_of_idle {s : State} (h : s.ist = .idle) (xs : List Level) :
    sampleAll xs s = s := by
  induction xs with
  | nil => rfl
  | cons x xs ih => simpa [sampleAll, h] using ih

theorem sampleAll_cons {s : State} (h : s.ist ≠ .idle) (x : Level) (xs : List Level) :
    sampleAll (x :: xs) s = sampleAll xs (takeSample x s) := by
  simp [sampleAll, h]

/-- A run of the expected level that stays within the limit is counted (R146, R147). -/
theorem sampleAll_run {s : State} (hp : meetsRules s.params) (hi : s.ist ≠ .idle) (n : Nat)
    (hd : s.dur.toNat + n ≤ limitOf s.params s.ist) (xs : List Level) :
    sampleAll (List.replicate n (levelOf s.ist) ++ xs) s =
      sampleAll xs { s with dur := BitVec.ofNat 8 (s.dur.toNat + n) } := by
  induction n generalizing s with
  | zero => simp
  | succ n ih =>
    have hl := limitOf_le hp s.ist
    have h1 : (s.dur + 1#8).toNat = s.dur.toNat + 1 := by
      rw [BitVec.toNat_add, BitVec.toNat_ofNat]; omega
    rw [List.replicate_succ, List.cons_append, sampleAll_cons hi, takeSample_counts hi (by omega),
      ih (s := { s with dur := s.dur + 1#8 }) hp hi (by simp only [h1]; omega)]
    simp only [h1]
    rw [show s.dur.toNat + 1 + n = s.dur.toNat + (n + 1) by omega]

/-- A run of the expected level past the limit aborts at the first sample past it (R147). -/
theorem sampleAll_run_aborts {s : State} (hp : meetsRules s.params) (hi : s.ist ≠ .idle) (n : Nat)
    (hd : limitOf s.params s.ist < s.dur.toNat + n) (hle : s.dur.toNat ≤ limitOf s.params s.ist)
    (xs : List Level) :
    sampleAll (List.replicate n (levelOf s.ist) ++ xs) s =
      abortDecode
        { s with dur := BitVec.ofNat 8 (limitOf s.params s.ist) } := by
  have hl := limitOf_le hp s.ist
  obtain ⟨m, hm⟩ : ∃ m, n = (limitOf s.params s.ist - s.dur.toNat) + (m + 1) :=
    ⟨n - (limitOf s.params s.ist - s.dur.toNat) - 1, by omega⟩
  subst hm
  rw [List.replicate_add, List.append_assoc, sampleAll_run hp hi _ (by omega),
    List.replicate_succ, List.cons_append,
    show s.dur.toNat + (limitOf s.params s.ist - s.dur.toNat) = limitOf s.params s.ist by omega,
    sampleAll_cons (s := { s with dur := BitVec.ofNat 8 (limitOf s.params s.ist) }) hi]
  have ha := takeSample_aborts (s := { s with dur := BitVec.ofNat 8 (limitOf s.params s.ist) }) hi
    (by simp only [BitVec.toNat_ofNat]; omega)
  rw [show takeSample (levelOf s.ist) { s with dur := BitVec.ofNat 8 (limitOf s.params s.ist) } = _
    from ha]
  exact sampleAll_of_idle (by simp [abortDecode]) _

/-- A poll that has not ended in FAIL at once begins with a LOW sample (R141). -/
theorem pollOn_low (s : State) (xs : List Level) :
    pollOn s (false :: xs) = sampleAll xs (beginDecode s) := rfl

theorem pollOn_high (s : State) (xs : List Level) :
    pollOn s (true :: xs) = State.respond false 0x00#8 s := rfl

end Sys2Proof.Machine
end

