-- ==== Sys2Proof/Laws/Ticks.lean ====
section
/-! SUPPORT. What a decode does over the cycles from one sample to the next (R144): the lemmas a proof
about a whole poll cites. -/

namespace Sys2Proof.Machine

/-- The same decode: the same parameters, IRD registers (the prescaler apart) and response. -/
structure SameDecode (s t : State) : Prop where
  params   : s.params = t.params
  ist      : s.ist = t.ist
  dur      : s.dur = t.dur
  shreg    : s.shreg = t.shreg
  nrx      : s.nrx = t.nrx
  rspValid : s.rspValid = t.rspValid
  rspOk    : s.rspOk = t.rspOk
  rspCmd   : s.rspCmd = t.rspCmd

theorem SameDecode.trans {s t u : State} (h : SameDecode s t) (k : SameDecode t u) :
    SameDecode s u :=
  ⟨h.params.trans k.params, h.ist.trans k.ist, h.dur.trans k.dur, h.shreg.trans k.shreg,
    h.nrx.trans k.nrx, h.rspValid.trans k.rspValid, h.rspOk.trans k.rspOk, h.rspCmd.trans k.rspCmd⟩

/-- A sample does the same to the same decode. -/
theorem SameDecode.takeSample {s t : State} (h : SameDecode s t) (x : Level) :
    SameDecode (takeSample x s) (takeSample x t) := by
  obtain ⟨a, b, c, d, e, f, g, i⟩ := h
  unfold Machine.takeSample
  rw [a, b, c]
  cases verdict t.params t.ist t.dur.toNat x <;> constructor <;>
    simp [applyVerdict, abortDecode, endDecode, State.respond, enterInterval, receiveBit,
      finishDecode, *]

theorem clearPulse_of_no_pulse {s : State} (h : s.rspValid = false) : s.clearPulse = s := by
  cases s; simp at h; subst h; rfl

/-- One cycle of a decode: the prescaler counts down, or a sample is taken (R144). -/
theorem step_of_busy_ird {s : State} (hp : meetsRules s.params) (hr : s.pins.rst = false)
    (hi : s.ist ≠ .idle) :
    ∃ u, step s = .next u ∧ (∀ p ps, s.feed = p :: ps → u.pins = p ∧ u.feed = ps) ∧
      (s.tick ≠ 0 → SameDecode u s.clearPulse ∧ u.tick = s.tick - 1) ∧
      (s.tick = 0 → SameDecode u (takeSample s.pins.irIn s.clearPulse) ∧
        u.tick = s.params.tickDiv - 1) := by
  have hf : s.fire = false := by
    cases hf : s.fire with
    | false => rfl
    | true => exact absurd (fire_iff.mp hf).2.2.1 hi
  have hi2 : (ptxStep s.clearPulse).ist ≠ .idle := by simpa using hi
  refine ⟨_, step_of_no_fire hp hr hf, ?_, ?_, ?_⟩
  · intro q qs hq
    apply endCycle_pins_cons; simp [unitsStep, hq]
  · intro ht
    simp only [unitsStep, irdStep_of_busy hi2]
    rw [if_pos (by simpa using ht)]
    exact ⟨by constructor <;> simp, by simp⟩
  · intro ht
    simp only [unitsStep, irdStep_of_busy hi2]
    rw [if_neg (by simpa using ht)]
    refine ⟨SameDecode.trans (t := Machine.takeSample (ptxStep s.clearPulse).pins.irIn
        { ptxStep s.clearPulse with tick := (ptxStep s.clearPulse).params.tickDiv - 1 }) ?_ ?_,
      by simp⟩
    · constructor <;> simp
    · simp only [ptxStep_pins, show s.clearPulse.pins = s.pins from rfl]
      apply SameDecode.takeSample
      constructor <;> simp

/-- From one sample to the next: after `tick` cycles the input of that cycle is sampled. -/
theorem tickRun (c : Nat) {s : State} (hp : meetsRules s.params) (hi : s.ist ≠ .idle)
    (hv : s.rspValid = false) (ht : s.tick = c) (n : Nat) (hr : resetFree (c + 1 + n) s = true) :
    ∃ u, runCycles (c + 1) s = .next u ∧
      SameDecode u (takeSample ((inputs s).getD c s.pins).irIn s) ∧ u.tick = s.params.tickDiv - 1 ∧
      (1 ≤ n → inputs u = (inputs s).drop (c + 1)) := by
  induction c generalizing s with
  | zero =>
    simp only [resetFree, inputs, Bool.and_eq_true] at hr
    obtain ⟨hl, hr⟩ := hr
    rw [show 0 + 1 + n = n + 1 by omega] at hr hl
    simp at hr hl
    obtain ⟨u, e1, e2, e3, e4⟩ := step_of_busy_ird hp hr.1 hi
    refine ⟨u, by simp [runCycles, e1], ?_, (e4 ht).2, ?_⟩
    · have := (e4 ht).1
      rw [clearPulse_of_no_pulse hv] at this
      simpa [inputs] using this
    · intro hn
      cases hf : s.feed with
      | nil => simp [hf] at hl; omega
      | cons p ps => simp [inputs, (e2 p ps hf).1, (e2 p ps hf).2, hf]
  | succ c ih =>
    simp only [resetFree, inputs, Bool.and_eq_true] at hr
    obtain ⟨hl, hr⟩ := hr
    rw [show c + 1 + 1 + n = (c + 1 + n) + 1 by omega] at hr hl
    simp at hr hl
    obtain ⟨u, e1, e2, e3, e4⟩ := step_of_busy_ird hp hr.1 hi
    have e3 := e3 (by omega)
    rw [clearPulse_of_no_pulse hv] at e3
    cases hf : s.feed with
    | nil => simp [hf] at hl
    | cons p ps =>
      have hin : inputs u = s.feed := by simp [inputs, (e2 p ps hf).1, (e2 p ps hf).2, hf]
      obtain ⟨v, f1, f2, f3, f4⟩ := ih (s := u) (by rw [e3.1.params]; exact hp)
        (by rw [e3.1.ist]; exact hi) (by rw [e3.1.rspValid]; exact hv) (by omega) (by
          simp only [resetFree, hin, Bool.and_eq_true, decide_eq_true_eq]
          exact ⟨by omega, by simpa using hr.2⟩)
      refine ⟨v, by simp [runCycles, e1]; exact f1, ?_, by rw [f3, e3.1.params], ?_⟩
      · refine f2.trans ?_
        have : ((inputs u).getD c u.pins).irIn = ((inputs s).getD (c + 1) s.pins).irIn := by
          rw [hin, inputs, List.getD_cons_succ]
          have : c < s.feed.length := by omega
          simp [List.getD, this]
        rw [this]
        exact e3.1.takeSample _
      · intro hn; rw [f4 hn, hin]; rfl

/-- The samples of one tick more. -/
theorem tickSamples_succ (k : Nat) (s : State) :
    tickSamples (k + 1) s =
      tickSamples k s ++ [((inputs s).getD ((k + 1) * s.params.tickDiv) s.pins).irIn] := by
  simp [tickSamples, List.range_succ]

end Sys2Proof.Machine
end

