-- ==== Sys2Proof/Tests/Slice0.lean ====
section
/-! SUPPORT. Tests: words and results of 95_test_vectors.md and of the rules, and for every statement
with hypotheses a witness that meets them. -/

namespace Sys2Proof.Tests

open Sys2Proof.Machine

/-! ## Words -/

/-- CLEAR's count has to fit `CNT_W` bits (R74, R78). -/
theorem test_wellFormed_refuses_wide_counts :
    wellFormed .w8 (.clear 256) = false ∧ wellFormed .w16 (.clear 65536) = false ∧
      wellFormed .w32 (.clear 4294967296) = false := by decide

theorem test_wellFormed_takes_the_widest_counts :
    wellFormed .w8 (.clear 255) = true ∧ wellFormed .w16 (.clear 65535) = true ∧
      wellFormed .w32 (.clear 4294967295) = true := by decide

/-- R72: `op` = 0001, then 24 ignored bits, then the value; V13, V18. -/
theorem test_decode_sendch :
    decode .w8 0b000100000000000000000000000010100101#36 = .ok (.sendch 0b10100101#8) ∧
      decode .w8 0x1DEADBEA5#36 = .ok (.sendch 0xA5#8) := ⟨rfl, rfl⟩

/-- R73: `op` = 0010, then `r`, `g`, `b`, `w`. -/
theorem test_decode_wrcolor :
    decode .w8 0b001000010000001000000011000001000000#36 =
      .ok (.wrcolor 0b00010000#8 0b00100000#8 0b00110000#8 0b01000000#8) := rfl

/-- R74: `op` = 0011, `n` in the low `CNT_W` bits; V26. -/
theorem test_decode_clear :
    decode .w8 0b001100000000000000000000000100000010#36 = .ok (.clear 2) ∧
      decode .w16 0x3ABCD0102#36 = .ok (.clear 0x0102) ∧
      decode .w32 0x3ABCD0102#36 = .ok (.clear 0xABCD0102) := ⟨rfl, rfl, rfl⟩

/-- R75: `op` = 0100, nothing else is read. -/
theorem test_decode_latch :
    decode .w8 0b010000000000000000000000000000000000#36 = .ok .latch ∧
      decode .w8 0x4FFFFFFFF#36 = .ok .latch := ⟨rfl, rfl⟩

/-- R76: `op` = 1000, nothing else is read. -/
theorem test_decode_irpoll :
    decode .w8 0b100000000000000000000000000000000000#36 = .ok .irpoll ∧
      decode .w8 0x812345678#36 = .ok .irpoll := ⟨rfl, rfl⟩

/-- R77, V28. -/
theorem test_decode_reserved :
    decode .w8 0x000000000#36 = .error (.reserved 0x0#4) ∧
      decode .w8 0x512345678#36 = .error (.reserved 0x5#4) ∧
      decode .w8 0x900000000#36 = .error (.reserved 0x9#4) ∧
      decode .w8 0xFFFFFFFFF#36 = .error (.reserved 0xF#4) := ⟨rfl, rfl, rfl, rfl⟩

/-- R70: a number of more than 36 bits is no command word. -/
theorem test_decodeTableWord :
    decodeTableWord 40 0x1000000A5 = some (.sendch 0xA5#8) ∧ decodeTableWord 40 0x500000000 = none ∧
      decodeTableWord 40 0x1100000000 = none := by decide

/-! ## Small states -/

/-- The levels of a cycle in which nothing is offered. -/
def quiet (ir : Level) : Pins where
  rst      := false
  cmdValid := false
  cmdWord  := 0#36
  irIn     := ir

/-- The block after reset, the word `w` on the port, then `n` cycles in which nothing is offered; the
IR line at one level. -/
def offered (w : CmdWord) (ir : Level) (n : Nat) : State :=
  { State.reset with
    pins := { rst := false, cmdValid := true, cmdWord := w, irIn := ir }
    feed := List.replicate n (quiet ir) }

/-- The block after reset in a reset cycle, one more known cycle with the input LOW to come. -/
def inReset : State :=
  { State.reset with
    pins := { rst := true, cmdValid := true, cmdWord := 0x1000000A5#36, irIn := false }
    feed := [quiet false] }

/-- A channel 0xA5 in the HIGH phase of bit 7, a command on the port. -/
def inHigh (cnt : Nat) (nbits : BitVec 4) : State :=
  { offered 0x400000000#36 true 0 with
    phase := .high, dout := true, cnt := cnt, sr := 0xA5#8, nbits := nbits }

/-- A channel in a LOW phase. -/
def inLow (cnt : Nat) (nbits : BitVec 4) (nch : BitVec 2) (ncol : Nat) : State :=
  { State.reset with
    phase := .low, cnt := cnt, sr := 0xA5#8, nbits := nbits, chbuf0 := 0x10#8, chbuf1 := 0x30#8,
    nch := nch, ncol := ncol }

/-- A decode in `ist`, with the count `dur`. -/
def inDecode (ist : IrState) (dur : BitVec 8) (tick : Nat) : State :=
  { State.reset with ist := ist, dur := dur, tick := tick }

/-- A reset cycle in a phase of a transmission. -/
def cutShort (ph : Phase) : State :=
  { inHigh 3 8#4 with phase := ph, pins := { rst := true, cmdValid := false, cmdWord := 0#36, irIn := true } }

/-- A host of three pixels with the codes 1 to 4 and a slice of 1000 cycles. -/
def fourCodes : HostParams where
  nPixels    := 3
  gamma      := .identity
  cmdPower   := 1#8
  cmdBright  := 2#8
  cmdSpeed   := 3#8
  cmdDensity := 4#8
  pollSlice  := 1000

/-- A host in a place, with some animation state. -/
def hostAt (place : HostPlace) (idle : Nat) : HostState where
  place   := place
  idle    := idle
  spent   := 0
  start   := 0
  speed   := 1
  density := 64

/-- Outputs with `dout` LOW. -/
def outs (ready ok : Bool) (cmd : Byte) (wake : Bool) : Outputs where
  cmdReady := ready
  rspValid := false
  rspOk    := ok
  rspCmd   := cmd
  dout     := false
  wake     := wake

/-- A host that acts, or lets the cycle pass. -/
def free (acts : Bool) : HostChoice where
  holdReset := false
  acts      := acts
  idleWord  := 0#36
  irIn      := true

theorem offered_accepts {i : Instr} {w : CmdWord} (h : decode .w8 w = .ok i) (ir : Level) (n : Nat) :
    accepts i (offered w ir n) := ⟨rfl, h⟩

theorem offered_inv (w : CmdWord) (ir : Level) (n : Nat) : BlockInv (offered w ir n) where
  rules     := (by decide : meetsRules Params.reference)
  oneUnit   := .inl rfl
  doutHigh  := (by decide : false = true ↔ Phase.idle = Phase.high)
  sending   := fun h => by cases h <;> contradiction
  atRest    := fun _ => ⟨rfl, rfl, rfl⟩
  latching  := fun h => by contradiction
  buffered  := Nat.zero_le _
  measuring := fun h => absurd rfl h
  noCount   := fun _ => rfl
  failZero  := fun _ => rfl
  cntFits   := Nat.zero_le _
  tickFits  := Nat.zero_le _
  ncolFits  := (by decide : 0 < 2 ^ Params.reference.cntW.bits)

theorem offered_resetFree (w : CmdWord) (ir : Level) {n m : Nat} (h : m ≤ n + 1) :
    resetFree m (offered w ir n) = true := by
  cases m with
  | zero => simp [resetFree]
  | succ m =>
    have : m ≤ n := by omega
    simp [resetFree, inputs, offered, this, List.take_replicate, quiet]

theorem offered_canAccept (w : CmdWord) (ir : Level) (n : Nat) :
    (offered w ir n).canAccept = true := rfl

/-! ## One step of each command -/

/-- R102 with `H1` = 7 of the reference instance; V13. -/
theorem test_sendch_starts_with_bit_7 :
    ∃ t, step (offered 0x1000000A5#36 true 1) = .next t ∧ t.dout = true ∧ t.cnt = 7 ∧ t.sr = 0xA5#8 ∧
      t.nbits = 8#4 := ⟨_, rfl, rfl, rfl, rfl, rfl⟩

/-- R103: V19, V21: the first channel is `g` with `GRB`, `r` with `RGBW`. -/
theorem test_wrcolor_buffers_in_line_order :
    ∃ t, step (offered 0x210203040#36 true 1) = .next t ∧ t.sr = 0x20#8 ∧ t.chbuf0 = 0x10#8 ∧
      t.chbuf1 = 0x30#8 ∧ t.nch = 2#2 := ⟨_, rfl, rfl, rfl, rfl, rfl⟩

theorem test_wrcolor_rgbw :
    ∃ t, execWrcolor 0x10#8 0x20#8 0x30#8 0x40#8
        { State.reset with params := { Params.reference with order := .rgbw } } = .next t ∧
      t.sr = 0x10#8 ∧ t.chbuf0 = 0x20#8 ∧ t.chbuf2 = 0x40#8 ∧ t.nch = 3#2 :=
  ⟨_, rfl, rfl, rfl, rfl, rfl⟩

/-- R104: V24, V25. -/
theorem test_clear :
    (∃ t, step (offered 0x3000000FF#36 true 1) = .next t ∧ t.ncol = 254 ∧ t.phase = .high ∧
      t.cnt = 3) ∧
    ∃ t, step (offered 0x300000000#36 true 1) = .next t ∧ t.phase = .idle ∧ t.dout = false :=
  ⟨⟨_, rfl, rfl, rfl, rfl⟩, ⟨_, rfl, rfl, rfl⟩⟩

/-- R108: V27. -/
theorem test_latch :
    ∃ t, step (offered 0x400000000#36 true 1) = .next t ∧ t.phase = .latch ∧ t.cnt = 2688 ∧
      t.cmdReady = false := ⟨_, rfl, rfl, rfl, rfl⟩

/-- R142, R143: V34. -/
theorem test_irpoll :
    (∃ t, step (offered 0x800000000#36 false 1) = .next t ∧ t.ist = .leadMark ∧ t.dur = 1#8 ∧
      t.tick = 959) ∧
    ∃ t, step (offered 0x800000000#36 true 1) = .next t ∧ t.rspValid = true ∧ t.rspOk = false :=
  ⟨⟨_, rfl, rfl, rfl, rfl⟩, ⟨_, rfl, rfl, rfl⟩⟩

/-- V30, V31, V32, V53, V54, V55, V44: which frames are accepted. -/
theorem test_frames :
    frameAccepted Params.reference 0xFE01E51A#32 = true ∧
      frameAccepted Params.reference 0xFD01E51A#32 = false ∧
      frameAccepted Params.reference 0xBA451234#32 = false ∧
      frameAccepted { Params.reference with irAddr := 0x1234#16 } 0xBA451234#32 = true ∧
      frameAccepted Params.reference 0xFE01001A#32 = true ∧
      frameAccepted { Params.reference with irAddr := 0xE51A#16 } 0xFE01E51A#32 = false ∧
      frameAccepted { Params.reference with irAddr := 0x00FF#16 } 0xFE0100FF#32 = true := by decide

/-- R111: `L_MAX` is 69; R160: `K_MAX` is 1011; R26, R32: 12 and 10 bits. -/
theorem test_reference_values :
    maxLatency Params.reference = 69 ∧ maxPollSamples Params.reference = 1011 ∧
      leastWidth 2688 = 12 ∧ leastWidth 959 = 10 := by decide

/-- V57, V59. -/
theorem test_colors :
    colorForHue .identity 0 = { r := 63#8, g := 0#8, b := 0#8 } ∧
      colorForHue .identity 64 = { r := 0#8, g := 63#8, b := 0#8 } := by decide

/-- R184, P4: the power command in ACTIVE for three pixels: CLEAR 3, then LATCH. -/
theorem test_power_clears_and_latches :
    (hostObserve fourCodes .w8 (outs true true 1#8 false) (hostAt (.polling .active) 0)).place =
      .issuing [.clear 3, .latch] .standby false := by decide

/-- R185: the wait polls after a `wake` and after nothing else. -/
theorem test_standby_polls_on_wake :
    (hostCycle fourCodes Params.reference (free true) (outs true false 0#8 true)
        (hostAt .waiting 0)).command = some .irpoll ∧
      (hostCycle fourCodes Params.reference (free true) (outs true false 0#8 false)
        (hostAt .waiting 0)).command = none := by decide

/-- R213: a 1 bit cut to three HIGH cycles marks the frame, though it reads as a 0 bit. -/
theorem test_reset_cut_marks_the_frame :
    (observeBlock Params.reference { frameStart [] with line := .high 2 } (cutShort .high)).corrupt =
        true ∧ receivedBit Params.reference 3 = some false := by decide

/-- R118, R121, U1: a HIGH run of 5 cycles (520 ns) is no bit's and marks the frame as it ends; one of
82 (8541 ns) has marked it already. -/
theorem test_high_run_of_no_bit_marks_the_frame :
    (observe Params.reference { frameStart [] with line := .high 5 } false).corrupt = true ∧
      (observe Params.reference { frameStart [] with line := .high 81 } true).corrupt = true := by
  decide

/-! ## Witnesses: states and operands that meet the hypotheses of each statement -/

theorem witness_EncodedCommandDecodesBack :
    wellFormed .w8 (.clear 255) = true ∧ wellFormed .w32 (.clear 4294967295) = true ∧
      wellFormed .w16 (.wrcolor 1#8 2#8 3#8 4#8) = true := by decide

theorem witness_DecodedCommandReencodesToUsedBits :
    decode .w8 0x1DEADBEA5#36 = .ok (.sendch 0xA5#8) := rfl

theorem witness_IgnoredBitsDoNotChangeDecoding :
    decode .w8 0x3FFFFFF02#36 = .ok (.clear 2) ∧
      0x3FFFFFF02#36 &&& usedBits .w8 (.clear 2) = 0x300000002#36 &&& usedBits .w8 (.clear 2) :=
  ⟨rfl, by decide⟩

theorem witness_DecodedCommandIsWellFormed : decode .w8 0x3FFFFFFFF#36 = .ok (.clear 255) := rfl

/-- The boundary codes of each reserved range. -/
theorem witness_ReservedCodesAreTheRest :
    decode .w8 0x0FFFFFFFF#36 = .error (.reserved 0x0#4) ∧
      decode .w8 0x500000000#36 = .error (.reserved 0x5#4) ∧
      decode .w8 0x7FFFFFFFF#36 = .error (.reserved 0x7#4) ∧
      decode .w8 0x900000000#36 = .error (.reserved 0x9#4) ∧
      decode .w8 0xFFFFFFFFF#36 = .error (.reserved 0xF#4) := ⟨rfl, rfl, rfl, rfl, rfl⟩

theorem witness_StepRunsTheAcceptedCommand :
    meetsRules (offered 0x1000000A5#36 true 1).params ∧
      accepts (.sendch 0xA5#8) (offered 0x1000000A5#36 true 1) ∧
      ∃ t, exec (.sendch 0xA5#8) (offered 0x1000000A5#36 true 1).clearPulse = .next t :=
  ⟨by decide, ⟨rfl, rfl⟩, _, rfl⟩

theorem witness_EndOfCycleWritesWakeAndTime :
    (offered 0#36 true 1).feed = [quiet true] ∧ State.reset.feed = [] := ⟨rfl, rfl⟩

theorem witness_ReservedCommandIsANoOperation :
    meetsRules (offered 0x512345678#36 true 1).params ∧
      (offered 0x512345678#36 true 1).fire = true ∧
      decode .w8 (offered 0x512345678#36 true 1).pins.cmdWord = .error (.reserved 0x5#4) :=
  ⟨by decide, rfl, rfl⟩

theorem witness_ResetStepSetsEveryRegister :
    meetsRules inReset.params ∧ inReset.pins.rst = true := by decide

/-- The inner premises as well: no reset and the input LOW in the cycle after. -/
theorem witness_BlockIsReadyAfterReset :
    meetsRules inReset.params ∧ inReset.pins.rst = true ∧
      ∃ t, step inReset = .next t ∧ t.pins.irIn = false ∧ t.pins.rst = false :=
  ⟨by decide, rfl, _, rfl, rfl, rfl⟩

theorem witness_BusyBlockIgnoresCommands :
    (inHigh 3 8#4).cmdReady = false ∧ (inDecode .leadMark 1#8 0).cmdReady = false ∧
      inReset.pins.rst = true := by decide

theorem witness_BlockNeverStops : meetsRules State.reset.params := by decide

/-- Every clause: a step without reset, two of them, and one after a reset step. -/
theorem witness_WakePulsesOnEveryEdge :
    meetsRules (offered 0#36 false 2).params ∧ (offered 0#36 false 2).pins.rst = false ∧
      (∃ t u, step (offered 0#36 false 2) = .next t ∧ t.pins.rst = false ∧ step t = .next u) ∧
      ∃ t u, inReset.pins.rst = true ∧ step inReset = .next t ∧ t.pins.rst = false ∧
        step t = .next u :=
  ⟨by decide, rfl, ⟨_, _, rfl, rfl, rfl⟩, ⟨_, _, rfl, rfl, rfl, rfl⟩⟩

/-- Both values of `rspValid` after the step. -/
theorem witness_ResponsePulsesExactlyWhenAPollEnds :
    (offered 0x800000000#36 true 1).pins.rst = false ∧
      (∃ t, step (offered 0x800000000#36 true 1) = .next t ∧ t.rspValid = true) ∧
      ∃ t, step (offered 0x800000000#36 false 1) = .next t ∧ t.rspValid = false :=
  ⟨rfl, ⟨_, rfl, rfl⟩, ⟨_, rfl, rfl⟩⟩

theorem witness_EveryStepKeepsTheInvariant :
    BlockInv (offered 0x1000000A5#36 true 1) ∧ ∃ t, step (offered 0x1000000A5#36 true 1) = .next t :=
  ⟨offered_inv _ _ _, _, rfl⟩

theorem witness_ResetEstablishesTheInvariant :
    meetsRules inReset.params ∧ inReset.pins.rst = true ∧ ∃ t, step inReset = .next t :=
  ⟨by decide, rfl, _, rfl⟩

theorem witness_LineIsLowUnlessSending :
    BlockInv (offered 0#36 true 0) ∧ (offered 0#36 true 0).phase = .idle := ⟨offered_inv _ _ _, rfl⟩

theorem witness_CountersFitTheirWidths : BlockInv (offered 0#36 true 0) := offered_inv _ _ _

theorem witness_UnitsMoveOnlyAlongTheListedTransitions :
    (offered 0x400000000#36 true 1).pins.rst = false ∧
      ∃ t, step (offered 0x400000000#36 true 1) = .next t := ⟨rfl, _, rfl⟩

/-- PTX: a poll is accepted, so the premise on the accepted command is met by a command. IRD: a LATCH
is. -/
theorem witness_IdleUnitsStayUntilTheirCommand :
    meetsRules (offered 0x800000000#36 true 1).params ∧
      (offered 0x800000000#36 true 1).pins.rst = false ∧
      (offered 0x800000000#36 true 1).phase = .idle ∧
      (∀ i, accepts i (offered 0x800000000#36 true 1) → i = .irpoll) ∧
      (offered 0x400000000#36 true 1).pins.rst = false ∧
      (offered 0x400000000#36 true 1).ist = .idle ∧
      ¬ accepts .irpoll (offered 0x400000000#36 true 1) := by
  refine ⟨by decide, rfl, rfl, fun i h => ?_, rfl, rfl, fun h => ?_⟩
  · have h2 : Except.ok Instr.irpoll = (Except.ok i : Except Rejected Instr) := h.2
    exact (Except.ok.inj h2).symm
  · have h2 : Except.ok Instr.latch = (Except.ok Instr.irpoll : Except Rejected Instr) := h.2
    exact absurd (Except.ok.inj h2) (by decide)

theorem witness_CommandsTouchOnlyTheirUnit :
    (∃ t, exec (.sendch 0xA5#8) State.reset = .next t) ∧ (∃ t, exec .irpoll State.reset = .next t) ∧
      ∃ t, exec .latch State.reset = .next t := ⟨⟨_, rfl⟩, ⟨_, rfl⟩, ⟨_, rfl⟩⟩

/-- For SENDCH, WRCOLOR, CLEAR, LATCH and IRPOLL: the block can accept. -/
theorem witness_SendchStartsItsChannel : State.reset.canAccept = true := rfl

theorem witness_WrcolorStartsItsColor :
    State.reset.canAccept = true ∧ State.reset.params.order = .grb ∧
      (∀ o, ({ State.reset with params := { Params.reference with order := o } } : State).canAccept =
        true) := ⟨rfl, rfl, fun _ => rfl⟩

theorem witness_ClearStartsItsZeroColors : State.reset.canAccept = true ∧ (255 : Nat) ≠ 0 := by decide

theorem witness_LatchEntersItsWait : State.reset.canAccept = true := rfl

theorem witness_IrpollStartsADecodeOrFails :
    (offered 0#36 false 0).canAccept = true ∧ (offered 0#36 false 0).pins.irIn = false ∧
      (offered 0#36 true 0).canAccept = true ∧ (offered 0#36 true 0).pins.irIn = true := by decide

theorem witness_PollOfAnIdleLineFailsAtOnce :
    meetsRules (offered 0x800000000#36 true 1).params ∧
      accepts .irpoll (offered 0x800000000#36 true 1) ∧
      (offered 0x800000000#36 true 1).pins.irIn = true := ⟨by decide, ⟨rfl, rfl⟩, rfl⟩

theorem witness_HighPhaseCountsThenFalls :
    meetsRules (inHigh 1 1#4).params ∧ (inHigh 1 1#4).pins.rst = false ∧
      (inHigh 1 1#4).phase = .high ∧ (inHigh 2 1#4).phase = .high := by decide

theorem witness_LowPhaseCountsThenNextBit :
    meetsRules (inLow 2 8#4 0#2 0).params ∧ (inLow 2 8#4 0#2 0).pins.rst = false ∧
      (inLow 2 8#4 0#2 0).phase = .low ∧ 1 < (inLow 2 8#4 0#2 0).cnt ∧
      (inLow 1 2#4 0#2 0).cnt ≤ 1 ∧ 1 < (inLow 1 2#4 0#2 0).nbits.toNat := by decide

/-- One state for each of the three clauses. -/
theorem witness_ChannelEndGoesOnOrCompletes :
    meetsRules (inLow 1 1#4 1#2 0).params ∧ (inLow 1 1#4 1#2 0).pins.rst = false ∧
      (inLow 1 1#4 1#2 0).phase = .low ∧ (inLow 1 1#4 1#2 0).cnt ≤ 1 ∧
      (inLow 1 1#4 1#2 0).nbits = 1#4 ∧ (inLow 1 1#4 1#2 0).nch ≠ 0#2 ∧
      (inLow 1 1#4 0#2 1).nch = 0#2 ∧ (inLow 1 1#4 0#2 1).ncol ≠ 0 ∧
      (inLow 1 1#4 0#2 0).nch = 0#2 ∧ (inLow 1 1#4 0#2 0).ncol = 0 := by decide

theorem witness_SendchSendsItsChannelWaveform :
    BlockInv (offered 0x1000000A5#36 true 100) ∧
      accepts (.sendch 0xA5#8) (offered 0x1000000A5#36 true 100) ∧
      resetFree (1 + channelCycles Params.reference) (offered 0x1000000A5#36 true 100) = true :=
  ⟨offered_inv _ _ _, offered_accepts rfl _ _, offered_resetFree _ _ (by decide)⟩

theorem witness_WrcolorSendsItsColorWaveform :
    BlockInv (offered 0x210203040#36 true 300) ∧
      accepts (.wrcolor 0x10#8 0x20#8 0x30#8 0x40#8) (offered 0x210203040#36 true 300) ∧
      resetFree (1 + colorCycles Params.reference) (offered 0x210203040#36 true 300) = true :=
  ⟨offered_inv _ _ _, offered_accepts rfl _ _, offered_resetFree _ _ (by decide)⟩

/-- The least and the greatest count. -/
theorem witness_ClearSendsItsZeroColors :
    BlockInv (offered 0x3000000FF#36 true 76500) ∧
      accepts (.clear 255) (offered 0x3000000FF#36 true 76500) ∧
      resetFree (1 + 255 * colorCycles Params.reference) (offered 0x3000000FF#36 true 76500) =
        true ∧
      accepts (.clear 0) (offered 0x300000000#36 true 0) ∧
      resetFree (1 + 0 * colorCycles Params.reference) (offered 0x300000000#36 true 0) = true :=
  ⟨offered_inv _ _ _, offered_accepts rfl _ _, offered_resetFree _ _ (by decide),
    offered_accepts rfl _ _, offered_resetFree _ _ (by decide)⟩

theorem witness_LatchHoldsTheLineLow :
    BlockInv (offered 0x400000000#36 true 2688) ∧ accepts .latch (offered 0x400000000#36 true 2688) ∧
      resetFree (1 + Params.reference.latchCyc) (offered 0x400000000#36 true 2688) = true :=
  ⟨offered_inv _ _ _, offered_accepts rfl _ _, offered_resetFree _ _ (by decide)⟩

theorem witness_EveryBitIsInsideTheLineLimits : meetsRules Params.reference := by decide

/-- A WRCOLOR with the greatest latency after it, a zero color of a CLEAR with none, and a color made of
three SENDCH commands. -/
def threeColors : List (List (Byte × Nat)) :=
  [[(0x20#8, 0), (0x10#8, 0), (0x30#8, 70)], [(0#8, 0), (0#8, 0), (0#8, 0)],
    [(0xFF#8, 1), (0x00#8, 70), (0x80#8, 2)]]

theorem witness_StringShowsTheFrameAsSent :
    meetsRules Params.reference ∧ 9000 < Params.reference.tLatchNs ∧ threeColors ≠ [] ∧
      ∀ c ∈ threeColors,
        c.length = channelsPerColor Params.reference ∧
          ∀ x ∈ c, x.2 ≤ 1 + maxLatency Params.reference := by
  decide

/-- The least late latency, and HIGH runs beside both bands of R118. -/
theorem witness_LineViolationsCorruptTheFrame :
    meetsRules Params.reference ∧ 9000 < Params.reference.tLatchNs ∧
      maxLatency Params.reference < 70 ∧
      isLatch Params.reference
        (Params.reference.cyc - highCycles Params.reference (0x30#8)[0] + Params.reference.gap + 1 +
          70) = false ∧
      ({ frameStart [] with line := .high 0 } : LedString).line = .high 0 ∧
      receivedBit Params.reference 0 = none ∧ receivedBit Params.reference 5 = none ∧
      receivedBit Params.reference 82 = none := by decide

/-- A reset in each phase of a transmission; a corrupt frame; a string that shows nothing, corrupt and
not. -/
theorem witness_ResetInATransmissionCorruptsTheFrame :
    meetsRules (cutShort .high).params ∧ (cutShort .high).pins.rst = true ∧
      (cutShort .high).phase = .high ∧ (cutShort .low).pins.rst = true ∧
      (cutShort .low).phase = .low ∧ LedString.powerUp.corrupt = true ∧
      LedString.powerUp.shown = [] ∧ (frameStart []).shown = [] ∧ (frameStart []).corrupt = false := by
  decide

theorem witness_PrescalerTakesASampleEveryTick :
    meetsRules (inDecode .bitMark 4#8 959).params ∧ (inDecode .bitMark 4#8 959).pins.rst = false ∧
      (inDecode .bitMark 4#8 959).ist ≠ .idle ∧ (inDecode .bitMark 4#8 959).tick ≠ 0 ∧
      (inDecode .bitMark 4#8 0).tick = 0 := by decide

/-- Every row: the last count below the limit and the limit. -/
theorem witness_IntervalCountsUpToItsLimit :
    ∀ c ∈ [(IrState.leadMark, false, 92), (.leadSpace, true, 47), (.bitMark, false, 8),
        (.bitSpace, true, 19), (.trailMark, false, 8)],
      ((inDecode c.1 0#8 0).ist, c.2.1, c.2.2) ∈
        [(.leadMark, false, Params.reference.leadMark.hi),
          (.leadSpace, true, Params.reference.leadSpace.hi),
          (.bitMark, false, Params.reference.bitMark.hi),
          (.bitSpace, true, Params.reference.oneSpace.hi),
          (.trailMark, false, Params.reference.bitMark.hi)] ∧
      (inDecode c.1 (BitVec.ofNat 8 (c.2.2 - 1)) 0).dur.toNat < c.2.2 ∧
      c.2.2 ≤ (inDecode c.1 (BitVec.ofNat 8 c.2.2) 0).dur.toNat := by decide

/-- Every row: the lower limit and the count below it. -/
theorem witness_IntervalEndsIntoTheNextState :
    ∀ c ∈ [(IrState.leadMark, true, 80, IrState.leadSpace), (.leadSpace, false, 43, .bitMark),
        (.bitMark, true, 4, .bitSpace)],
      ((inDecode c.1 0#8 0).ist, c.2.1, c.2.2.1, c.2.2.2) ∈
        [(.leadMark, true, Params.reference.leadMark.lo, .leadSpace),
          (.leadSpace, false, Params.reference.leadSpace.lo, .bitMark),
          (.bitMark, true, Params.reference.bitMark.lo, .bitSpace)] ∧
      (inDecode c.1 (BitVec.ofNat 8 (c.2.2.1 - 1)) 0).dur.toNat < c.2.2.1 ∧
      c.2.2.1 ≤ (inDecode c.1 (BitVec.ofNat 8 c.2.2.1) 0).dur.toNat := by decide

/-- Both bits at their limits, and the count between the windows. -/
theorem witness_BitSpaceGivesTheBit :
    (inDecode .bitSpace 8#8 0).ist = .bitSpace ∧ spaceBit Params.reference 4 = some false ∧
      spaceBit Params.reference 8 = some false ∧ spaceBit Params.reference 9 = none ∧
      spaceBit Params.reference 14 = none ∧ spaceBit Params.reference 15 = some true ∧
      spaceBit Params.reference 19 = some true := by decide

theorem witness_TrailMarkEndsTheDecode :
    (inDecode .trailMark 4#8 0).ist = .trailMark ∧ (inDecode .trailMark 3#8 0).dur.toNat < 4 ∧
      4 ≤ (inDecode .trailMark 4#8 0).dur.toNat ∧ dataAccepted Params.reference 0xFE01E51A#32 ∧
      ¬ dataAccepted Params.reference 0xFD01E51A#32 := by
  unfold dataAccepted; decide

/-- The two modes, and the two pairs of bytes that match an 8-bit address. -/
theorem witness_AddressBytesSelectTheMode :
    (0x1A#8).toNat + (0xE5#8).toNat = 255 ∧ (0x34#8).toNat + (0x12#8).toNat ≠ 255 ∧
      0xE5#8 = ~~~ (0x1A#8) ∧ frameAddress 0x1A#8 0x00#8 = (0x1A#8).setWidth 16 := by decide

theorem witness_MixedAddressMatchesNoFrame :
    255 < (0xE51A#16).toNat ∧ (0xE51A#16).toNat / 256 + (0xE51A#16).toNat % 256 = 255 := by decide

theorem witness_PollSeesTheTickSamples :
    BlockInv (offered 0x800000000#36 false 960) ∧ accepts .irpoll (offered 0x800000000#36 false 960) ∧
      (offered 0x800000000#36 false 960).pins.irIn = false ∧
      resetFree (1 * 960 + 1) (offered 0x800000000#36 false 960) = true ∧
      ∀ j < 1, (pollOn (offered 0x800000000#36 false 960).clearPulse
        (tickSamples j (offered 0x800000000#36 false 960))).ist ≠ .idle := by
  refine ⟨offered_inv _ _ _, offered_accepts rfl _ _, rfl, offered_resetFree _ _ (by decide), ?_⟩
  intro j hj
  obtain rfl : j = 0 := by omega
  decide

theorem witness_EveryPollEndsInBoundedTime :
    BlockInv (offered 0x800000000#36 false 970560) ∧
      accepts .irpoll (offered 0x800000000#36 false 970560) ∧
      resetFree (maxPollSamples Params.reference * Params.reference.tickDiv + 1)
        (offered 0x800000000#36 false 970560) = true :=
  ⟨offered_inv _ _ _, offered_accepts rfl _ _, offered_resetFree _ _ (by decide)⟩

/-- The frame whose data bits are those of `d`, marks of `mark` ticks, spaces of `short` or `long`. -/
def frameOf (lead space mark short long : Nat) (d : BitVec 32) : Durations where
  leadMark  := lead
  leadSpace := space
  bits      := (List.range 32).map (fun i => (mark, if d.getLsbD i then long else short))
  trailMark := mark

/-- The windows of V30, and of V49 and V50, which are at the limits. -/
theorem witness_FrameInWindowsIsDecoded :
    meetsRules State.reset.params ∧ State.reset.rspValid = false ∧
      (frameOf 90 45 6 6 17 0xFE01E51A#32).inWindows Params.reference ∧
      (frameOf 80 43 4 4 15 0xFF00E51A#32).inWindows Params.reference ∧
      (frameOf 92 47 8 8 19 0xFE01E51A#32).inWindows Params.reference := by
  unfold Durations.inWindows inWindow
  exact ⟨by decide, by decide, by decide, by decide, by decide⟩

/-- V30 and V31: both outcomes of the data check. -/
theorem witness_FrameInWindowsIsDecoded_data :
    dataAccepted Params.reference ((frameOf 90 45 6 6 17 0xFE01E51A#32).data Params.reference) ∧
      ¬ dataAccepted Params.reference
        ((frameOf 90 45 6 6 17 0xFD01E51A#32).data Params.reference) := by
  unfold dataAccepted
  exact ⟨by decide, by decide⟩

/-- V49: the shortest frame. -/
theorem witness_OnlyFramesInWindowsSucceed :
    meetsRules State.reset.params ∧ State.reset.rspValid = false ∧
      (pollOn State.reset (frameOf 80 43 4 4 15 0xFF00E51A#32).samples).rspValid = true ∧
      (pollOn State.reset (frameOf 80 43 4 4 15 0xFF00E51A#32).samples).rspOk = true :=
  ⟨by decide, by decide, by decide +kernel, by decide +kernel⟩

/-- A state with other registers, and samples on which the poll ends. -/
theorem witness_PollForgetsEarlierPolls :
    (inDecode .idle 0#8 5).params = State.reset.params ∧ State.reset.rspValid = false ∧
      (inDecode .idle 0#8 5).rspValid = false ∧
      (pollOn State.reset [false, false, false, true]).rspValid = true := by decide

theorem witness_NoiseAndStuckLinesFail :
    meetsRules State.reset.params ∧ 1 ≤ 79 ∧ 79 < State.reset.params.leadMark.lo ∧
      inWindow State.reset.params.leadMark 80 ∧ inWindow State.reset.params.leadMark 92 := by
  unfold inWindow; decide

theorem witness_HueWheelIsPeriodicAndSeamless : gammaMeetsRule .identity := trivial

theorem witness_FrameIsOneColorPerPixelThenLatch : 2 < 3 := by decide

/-- Strings cleared by one command, by several, and the count at the boundary. -/
theorem witness_ClearCommandsCoverTheString :
    Instr.clear 255 ∈ clearCommands .w8 255 ∧ Instr.clear 1 ∈ clearCommands .w8 256 := by decide

/-- Every clause: the reset held and ended; a first command, one that `L_MAX` forces, and a cycle let
pass; both ends of commands; the slice before and after its first poll, at the last cycle and at its end;
a forced poll; a poll in progress and one that failed. -/
theorem witness_HostLoopRunsFrameThenPolls :
    (hostAt .resetting 0).place = .resetting ∧ (free false).holdReset = false ∧
      ({ free false with holdReset := true } : HostChoice).holdReset = true ∧
      (outs false false 0#8 false).cmdReady = false ∧ (outs true false 0#8 false).cmdReady = true ∧
      (outs true false 0#8 false).rspOk = false ∧ (free true).acts = true ∧
      (hostAt (.issuing [.sendch 1#8] .polls true) 69).place = .issuing ([.sendch 1#8]) .polls true ∧
      transmits (.sendch 1#8) = true ∧
      maxLatency Params.reference ≤ (hostAt (.issuing [.sendch 1#8] .polls true) 69).idle ∧
      (hostCycle fourCodes Params.reference (free false) (outs true false 0#8 false)
        (hostAt (.issuing [.sendch 1#8] .polls true) 68)).command = none ∧
      (hostAt (.issuing [] .loop false) 0).place = .issuing [] .loop false ∧
      (hostAt (.issuing [] .polls true) 0).place = .issuing [] .polls true ∧
      (hostAt (.slice false) 8083).place = .slice false ∧
      maxPollDelay Params.reference ≤ (hostAt (.slice false) 8083).idle ∧
      (hostAt (.polling .active) 0).place = .polling .active ∧
      (hostAt (.slice true) 0).place = .slice true ∧
      ({ hostAt (.slice true) 0 with spent := 998 } : HostState).spent + 1 < fourCodes.pollSlice ∧
      fourCodes.pollSlice ≤ ({ hostAt (.slice true) 0 with spent := 1000 } : HostState).spent ∧
      (hostAt .waiting 0).place ≠ .slice true := by decide

/-- A successful response in ACTIVE; four distinct codes, and one that is none of them. -/
theorem witness_EveryCodeHasItsOwnAction :
    ((hostAt (.polling .active) 0).place = .polling .active ∧
      (outs true true 5#8 false).cmdReady = true ∧ (outs true true 5#8 false).rspOk = true) ∧
    hostMeetsRules fourCodes ∧
      5#8 ∉ [fourCodes.cmdPower, fourCodes.cmdBright, fourCodes.cmdSpeed, fourCodes.cmdDensity] :=
  ⟨by decide, ⟨by decide, trivial⟩, by decide⟩

/-- The power command in each mode, every place of STANDBY, and both levels of `wake`. -/
theorem witness_StandbyIsLeftOnlyByThePowerCommand :
    (outs true true 1#8 false).cmdReady = true ∧ (outs true true 1#8 false).rspOk = true ∧
      (outs true true 1#8 false).rspCmd = fourCodes.cmdPower ∧
      (hostAt (.polling .standby) 0).mode = .standby ∧ (hostAt .waiting 0).mode = .standby ∧
      (hostAt .woken 0).mode = .standby ∧ (hostAt (.issuing [] .standby false) 0).mode = .standby ∧
      (outs true false 0#8 false).wake = false ∧ (outs true false 0#8 true).wake = true ∧
      (hostCycle fourCodes Params.reference (free false) (outs true true 2#8 false)
        (hostAt (.polling .standby) 0)).host.mode = .standby := by decide

end Sys2Proof.Tests
end

section
/-! PROOFS of the scope family: the step is total and keeps the parameters (R12, R39, R190), what the end
of a cycle writes (R21, R37), the line limits of R7 and R118. -/

namespace Sys2Proof.Machine

/-! ## Time: the next cycle as a whole state -/

theorem nextCycle_of_cons {s : State} {p : Pins} {ps : List Pins} (h : s.feed = p :: ps) :
    nextCycle s = { s with cycle := s.cycle + 1, pins := p, feed := ps } := by
  simp [nextCycle, h]

theorem nextCycle_of_nil {s : State} (h : s.feed = []) :
    nextCycle s =
      { s with cycle := s.cycle + 1, pins := Config.freePins (s.cycle + 1), feed := [] } := by
  simp [nextCycle, h]

/-- Settles O8, by whether the feed has a next entry. -/
theorem endOfCycleWritesWakeAndTime : Obligations.EndOfCycleWritesWakeAndTime := by
  intro s
  cases hf : s.feed with
  | nil =>
    exact ⟨Config.freePins (s.cycle + 1), [], nextCycle_of_nil (s := s.wakeStep) hf,
      by simp, fun _ => ⟨rfl, rfl⟩⟩
  | cons p ps =>
    exact ⟨p, ps, nextCycle_of_cons (s := s.wakeStep) hf,
      fun _ _ h => List.cons.inj h, by simp⟩

/-! ## The parameters are no register (R39) -/

@[simp] theorem resetEdge_params (s : State) : (resetEdge s).params = s.params :=
  nextCycle_params _

@[simp] theorem unitsStep_params (s : State) : (unitsStep s).params = s.params := by
  simp [unitsStep]

theorem onAccept_params {s t u : State} (ht : t.params = s.params) (h : onAccept s t = .next u) :
    u.params = s.params := by
  obtain ⟨-, rfl⟩ | ⟨-, rfl⟩ := onAccept_eq_next h
  · exact ht
  · rfl

/-- No command writes the parameters. -/
theorem exec_params {i : Instr} {s t : State} (h : exec i s = .next t) : t.params = s.params := by
  cases i with
  | sendch value => exact onAccept_params (by simp) h
  | wrcolor r g b w => exact onAccept_params (by simp) h
  | clear n => exact onAccept_params (by split <;> simp [startZeroColor]) h
  | latch => exact onAccept_params (by rfl) h
  | irpoll => exact onAccept_params (by split <;> simp) h

/-- No step writes the parameters (R39). -/
theorem step_params {s t : State} (h : step s = .next t) : t.params = s.params := by
  obtain ⟨-, ⟨-, rfl⟩ | ⟨-, -, i, u, -, he, rfl⟩ | ⟨-, -, -, rfl⟩ | ⟨-, -, rfl⟩⟩ := step_cases h
  · exact resetEdge_params s
  · simpa using exec_params he
  · simp
  · simp

/-! ## The step is total (R12, R190) -/

theorem step_next {s : State} (hp : meetsRules s.params) : ∃ t, step s = .next t := by
  cases hr : s.pins.rst with
  | true => exact ⟨_, step_of_reset hp hr⟩
  | false =>
    cases hf : s.fire with
    | true =>
      obtain ⟨u, hu⟩ := acceptWord_next s.pins.cmdWord s.clearPulse
      exact ⟨endCycle u, by rw [step_of_fire hp hf, hu, endCycleOf]⟩
    | false => exact ⟨_, step_of_no_fire hp hr hf⟩

/-- Settles O13: the step is total under the rules, and no branch of it writes the parameters. -/
theorem blockNeverStops : Obligations.BlockNeverStops := by
  intro s hp
  obtain ⟨t, ht⟩ := step_next hp
  exact ⟨t, ht, step_params ht⟩

/-! ## The line limits (R7, R111, R118) -/

/-- A HIGH phase of the block is received as the bit it stands for: the bands of R118 are disjoint, so a
1 is not taken for a 0. -/
theorem receivedBit_highCycles {p : Params} (hp : meetsRules p) (b : Bool) :
    receivedBit p (highCycles p b) = some b := by
  obtain ⟨⟨hclk, -⟩, ⟨h0lo, h0hi, h1lo, h1hi, -⟩, -⟩ := hp
  cases b with
  | false => exact if_pos ⟨h0lo, h0hi⟩
  | true =>
    have notZero : ¬ (65 * p.fClkHz ≤ 1000000000 * p.h1 ∧ 1000000000 * p.h1 ≤ 500 * p.fClkHz) := by
      omega
    exact (if_neg notZero).trans (if_pos ⟨h1lo, h1hi⟩)

/-- A bit cycle of the block, however stretched, is inside the limits of R118 as long as it ends by
9000 ns: R7 sees to the lower limit. -/
theorem cycleInLimits_cyc_add_iff {p : Params} (hp : meetsRules p) (n : Nat) :
    cycleInLimits p (p.cyc + n) = true ↔ 1000000000 * (p.cyc + n) ≤ 9000 * p.fClkHz := by
  obtain ⟨-, ⟨-, -, -, -, hcyc, -⟩, -⟩ := hp
  rw [cycleInLimits_iff]
  omega

/-- `L_MAX` (R111) as a bound on the bit cycle: R7 leaves the subtraction exact. -/
theorem le_maxLatency_iff {p : Params} (hp : meetsRules p) (latency : Nat) :
    latency ≤ maxLatency p ↔
      1000000000 * (p.cyc + (p.gap + 1 + latency)) ≤ 9000 * p.fClkHz := by
  obtain ⟨-, ⟨-, -, -, -, -, hfit, -⟩, -⟩ := hp
  unfold maxLatency
  omega

/-- Settles O36: the bands of R7 are those of R118, and a latency of 0 is within `L_MAX`. -/
theorem everyBitIsInsideTheLineLimits : Obligations.EveryBitIsInsideTheLineLimits := by
  intro p hp
  have hfit := (le_maxLatency_iff hp 0).mp (Nat.zero_le _)
  refine ⟨receivedBit_highCycles hp, ?_, ?_, fun latency => ?_⟩
  · exact (cycleInLimits_cyc_add_iff hp 0).mpr (by omega)
  · exact (cycleInLimits_cyc_add_iff hp p.gap).mpr (by omega)
  · rw [le_maxLatency_iff hp, ← cycleInLimits_cyc_add_iff hp, ← Nat.add_assoc, ← Nat.add_assoc]

end Sys2Proof.Machine
end

section
/-! PROOFS of the state family: the invariant of R43, the response registers (R36), the wake
registers (R37), what a busy block ignores (R23, R221), the counters' widths (R26, R30, R32). -/

namespace Sys2Proof.Machine

/-! ## What a command leaves as it is -/

/-- What holds of both outcomes of `onAccept` holds of the one it has. -/
theorem onAccept_induct {P : State → Prop} {s t u : State} (h : onAccept s t = .next u)
    (hs : P s) (ht : P t) : P u := by
  obtain ⟨-, rfl⟩ | ⟨-, rfl⟩ := onAccept_eq_next h
  · exact ht
  · exact hs

/-- No command writes the parameters, time, the ports or the wake registers. -/
theorem exec_sameSurroundings {i : Instr} {s t : State} (h : exec i s = .next t) :
    sameSurroundings s t := by
  have same : sameSurroundings s s := ⟨rfl, rfl, rfl, rfl, rfl, rfl⟩
  cases i with
  | sendch value => exact onAccept_induct h same same
  | wrcolor r g b w => exact onAccept_induct h same same
  | clear n => exact onAccept_induct h same (by split <;> exact same)
  | latch => exact onAccept_induct h same same
  | irpoll => exact onAccept_induct h same (by split <;> exact same)

/-- A transmitting command or a LATCH writes no IRD and no response register (R100). -/
theorem exec_irdRegs_rspRegs {i : Instr} {s t : State} (hi : i ≠ .irpoll)
    (h : exec i s = .next t) : irdRegs t = irdRegs s ∧ rspRegs t = rspRegs s := by
  have keep {u : State} (hu : onAccept s u = .next t)
      (same : irdRegs u = irdRegs s ∧ rspRegs u = rspRegs s) :
      irdRegs t = irdRegs s ∧ rspRegs t = rspRegs s :=
    onAccept_induct (P := fun v => irdRegs v = irdRegs s ∧ rspRegs v = rspRegs s) hu ⟨rfl, rfl⟩ same
  cases i with
  | sendch value => exact keep h ⟨rfl, rfl⟩
  | wrcolor r g b w => exact keep h ⟨rfl, rfl⟩
  | clear n => exact keep h (by split <;> exact ⟨rfl, rfl⟩)
  | latch => exact keep h ⟨rfl, rfl⟩
  | irpoll => exact absurd rfl hi

/-- IRPOLL writes no PTX register (R140). -/
theorem exec_irpoll_ptxRegs {s t : State} (h : exec .irpoll s = .next t) :
    ptxRegs t = ptxRegs s :=
  onAccept_induct (P := fun u => ptxRegs u = ptxRegs s) h rfl (by split <;> rfl)

/-- An accepted poll answers FAIL at once or begins a decode (R142, R143). -/
theorem exec_irpoll_cases {s t : State} (hc : s.canAccept = true) (h : exec .irpoll s = .next t) :
    (s.pins.irIn = true ∧ t = State.respond false 0x00#8 s) ∨
    (s.pins.irIn = false ∧ t = beginDecode s) := by
  have ht : (if s.pins.irIn then State.respond false 0x00#8 s else beginDecode s) = t := by
    simpa [exec, execIrpoll, hc] using h
  cases hx : s.pins.irIn with
  | true => exact .inl ⟨rfl, by rw [← ht, hx]; rfl⟩
  | false => exact .inr ⟨rfl, by rw [← ht, hx]; rfl⟩

/-! ## What a step without a command leaves as it is -/

@[simp] theorem irdRegs_ptxStep (s : State) : irdRegs (ptxStep s) = irdRegs s := by simp [irdRegs]

@[simp] theorem rspRegs_ptxStep (s : State) : rspRegs (ptxStep s) = rspRegs s := by simp [rspRegs]

@[simp] theorem ptxRegs_irdStep (s : State) : ptxRegs (irdStep s) = ptxRegs s := by simp [ptxRegs]

@[simp] theorem ptxRegs_endCycle (s : State) : ptxRegs (endCycle s) = ptxRegs s := by simp [ptxRegs]

@[simp] theorem irdRegs_endCycle (s : State) : irdRegs (endCycle s) = irdRegs s := by simp [irdRegs]

@[simp] theorem rspRegs_endCycle (s : State) : rspRegs (endCycle s) = rspRegs s := by simp [rspRegs]

@[simp] theorem ptxRegs_clearPulse (s : State) : ptxRegs s.clearPulse = ptxRegs s := rfl

@[simp] theorem irdRegs_clearPulse (s : State) : irdRegs s.clearPulse = irdRegs s := rfl

@[simp] theorem rspRegs_clearPulse (s : State) :
    rspRegs s.clearPulse = { rspRegs s with rspValid := false } := rfl

@[simp] theorem ptxRegs_resetEdge (s : State) : ptxRegs (resetEdge s) = ptxRegs State.reset := by
  simp [ptxRegs, resetEdge]

@[simp] theorem irdRegs_resetEdge (s : State) : irdRegs (resetEdge s) = irdRegs State.reset := by
  simp [irdRegs, resetEdge]

@[simp] theorem rspRegs_resetEdge (s : State) : rspRegs (resetEdge s) = rspRegs State.reset := by
  simp [rspRegs, resetEdge]

/-! ## What one sample can do (R145) -/

/-- After a bit: the next bit mark, or the trail mark once all 32 are in (R153). -/
theorem receiveBit_ist (b : Bool) (s : State) :
    (receiveBit b s).ist = if s.nrx + 1#6 = 32#6 then .trailMark else .bitMark := rfl

theorem receiveBit_ist_ne_idle (b : Bool) (s : State) : (receiveBit b s).ist ≠ .idle := by
  rw [receiveBit_ist]
  split <;> decide

/-- The end of an interval is FAIL or what follows the interval. -/
theorem ends_cases (dur lo : Nat) (c : FailCause) (v : Verdict) :
    ends dur lo c v = .abort c ∨ ends dur lo c v = v := by
  unfold ends
  split
  · exact .inl rfl
  · exact .inr rfl

/-- The end of a bit space is a bit or FAIL (R153). -/
theorem endsBitSpace_cases (p : Params) (dur : Nat) :
    endsBitSpace p dur = .abort .bitSpace ∨ ∃ b, endsBitSpace p dur = .dataBit b := by
  unfold endsBitSpace
  split
  · exact .inr ⟨false, rfl⟩
  split
  · exact .inr ⟨true, rfl⟩
  · exact .inl rfl

/-- Everything a sample at the level a measuring state does not expect can mean (R150 to R154). -/
theorem verdict_of_edge_cases (p : Params) {i : IrState} (hi : i ≠ .idle) (dur : Nat) :
    (∃ c, verdict p i dur (!levelOf i) = .abort c) ∨
    (i ≠ .trailMark ∧ ∃ n, n ≠ .idle ∧ verdict p i dur (!levelOf i) = .leaveTo n) ∨
    (i = .bitSpace ∧ ∃ b, verdict p i dur (!levelOf i) = .dataBit b) ∨
    verdict p i dur (!levelOf i) = .finish := by
  cases i with
  | idle => exact absurd rfl hi
  | leadMark =>
    exact (ends_cases dur p.leadMark.lo .leadMarkShort (.leaveTo .leadSpace)).imp (⟨_, ·⟩)
      fun h => .inl ⟨by decide, .leadSpace, by decide, h⟩
  | leadSpace =>
    exact (ends_cases dur p.leadSpace.lo .leadSpace (.leaveTo .bitMark)).imp (⟨_, ·⟩)
      fun h => .inl ⟨by decide, .bitMark, by decide, h⟩
  | bitMark =>
    exact (ends_cases dur p.bitMark.lo .bitMark (.leaveTo .bitSpace)).imp (⟨_, ·⟩)
      fun h => .inl ⟨by decide, .bitSpace, by decide, h⟩
  | bitSpace =>
    exact (endsBitSpace_cases p dur).imp (⟨_, ·⟩) fun h => .inr (.inl ⟨rfl, h⟩)
  | trailMark =>
    exact (ends_cases dur p.bitMark.lo .trailMark .finish).imp (⟨_, ·⟩)
      fun h => .inr (.inr h)

/-- Everything a sample of a decode can do: FAIL, count below the limit, begin the next interval,
receive a bit, or finish. -/
theorem takeSample_cases (x : Level) {s : State} (hi : s.ist ≠ .idle) :
    takeSample x s = abortDecode s ∨
    (s.dur.toNat < limitOf s.params s.ist ∧ takeSample x s = { s with dur := s.dur + 1#8 }) ∨
    (s.ist ≠ .trailMark ∧ ∃ n, n ≠ .idle ∧ takeSample x s = enterInterval n s) ∨
    (s.ist = .bitSpace ∧ ∃ b, takeSample x s = receiveBit b s) ∨
    takeSample x s = finishDecode s := by
  by_cases hx : x = levelOf s.ist
  · subst hx
    by_cases hd : s.dur.toNat < limitOf s.params s.ist
    · exact .inr (.inl ⟨hd, takeSample_counts hi hd⟩)
    · exact .inl (takeSample_aborts hi (by omega))
  · obtain rfl := Bool.eq_not.mpr hx
    have sample {v : Verdict} (h : verdict s.params s.ist s.dur.toNat (!levelOf s.ist) = v) :
        takeSample (!levelOf s.ist) s = applyVerdict v s := by rw [takeSample, h]
    obtain ⟨c, h⟩ | ⟨ht, n, hn, h⟩ | ⟨hb, b, h⟩ | h :=
      verdict_of_edge_cases s.params hi s.dur.toNat
    · exact .inl (sample h)
    · exact .inr (.inr (.inl ⟨ht, n, hn, sample h⟩))
    · exact .inr (.inr (.inr (.inl ⟨hb, b, sample h⟩)))
    · exact .inr (.inr (.inr (.inr (sample h))))

/-! ## The response registers (R36) -/

/-- The response of a poll that ends in FAIL or with the received `cmd1` (R155, R156). -/
def RspRegs.ofDecode (ok : Bool) (d : BitVec 32) : RspRegs where
  rspValid := true
  rspOk    := ok
  rspCmd   := if ok then cmd1 d else 0x00#8

/-- A decode ends with a response, or the sample leaves the response registers. -/
theorem takeSample_response (x : Level) {s : State} (hi : s.ist ≠ .idle) :
    ((takeSample x s).ist = .idle ∧ ∃ ok, rspRegs (takeSample x s) = .ofDecode ok s.shreg) ∨
    ((takeSample x s).ist ≠ .idle ∧ rspRegs (takeSample x s) = rspRegs s) := by
  obtain h | ⟨-, h⟩ | ⟨-, n, hn, h⟩ | ⟨-, b, h⟩ | h := takeSample_cases x hi <;> rw [h]
  · exact .inl ⟨rfl, false, rfl⟩
  · exact .inr ⟨hi, rfl⟩
  · exact .inr ⟨hn, rfl⟩
  · exact .inr ⟨receiveBit_ist_ne_idle b s, rfl⟩
  · exact .inl ⟨rfl, frameAccepted s.params s.shreg, rfl⟩

/-- One cycle of a decode: the same. -/
theorem irdStep_response {s : State} (hi : s.ist ≠ .idle) :
    ((irdStep s).ist = .idle ∧ ∃ ok, rspRegs (irdStep s) = .ofDecode ok s.shreg) ∨
    ((irdStep s).ist ≠ .idle ∧ rspRegs (irdStep s) = rspRegs s) := by
  rw [irdStep_of_busy hi]
  split
  · exact .inr ⟨hi, rfl⟩
  · exact takeSample_response s.pins.irIn (s := { s with tick := s.params.tickDiv - 1 }) hi

/-- An IRPOLL ends in the step from `s` to `t`: a decode returns to `I_IDLE`, or the poll of an idle
line is accepted (R143, R155, R156). -/
def PollEnds (s t : State) : Prop :=
  (s.ist ≠ .idle ∧ t.ist = .idle) ∨ (accepts .irpoll s ∧ s.pins.irIn = true)

/-- From `s` to `t` the response registers take a response exactly when a poll ends, and otherwise
keep all but the pulse (R36). -/
def RespondsAtPollEnd (s t : State) : Prop :=
  (PollEnds s t ∧ ∃ ok, rspRegs t = .ofDecode ok s.shreg) ∨
  (¬ PollEnds s t ∧ rspRegs t = { rspRegs s with rspValid := false })

theorem respondsAtPollEnd_endCycle {s u : State} (h : RespondsAtPollEnd s u) :
    RespondsAtPollEnd s (endCycle u) := by
  simpa [RespondsAtPollEnd, PollEnds] using h

/-- A cycle without reset in which no command fires. -/
theorem respondsAtPollEnd_unitsStep {s : State} (hf : s.fire = false) :
    RespondsAtPollEnd s (unitsStep s.clearPulse) := by
  have notAccepted : ¬ (accepts .irpoll s ∧ s.pins.irIn = true) := by
    simp [accepts, hf]
  have hist : (ptxStep s.clearPulse).ist = s.ist := by simp
  unfold unitsStep
  by_cases hi : s.ist = .idle
  · rw [irdStep_of_idle (hist.trans hi)]
    exact .inr ⟨by simp [PollEnds, notAccepted, hi], by simp⟩
  · obtain ⟨ht, ok, h⟩ | ⟨ht, h⟩ := irdStep_response (s := ptxStep s.clearPulse) (by rwa [hist])
    · exact .inl ⟨.inl ⟨hi, ht⟩, ok, by simpa using h⟩
    · exact .inr ⟨by simp [PollEnds, notAccepted, ht], by simpa using h⟩

/-- A cycle in which a command fires. -/
theorem respondsAtPollEnd_exec {i : Instr} {s u : State} (hf : s.fire = true)
    (hd : decode s.params.cntW s.pins.cmdWord = .ok i) (he : exec i s.clearPulse = .next u) :
    RespondsAtPollEnd s u := by
  obtain ⟨-, hphase, hist, hrst⟩ := fire_iff.mp hf
  by_cases hi : i = .irpoll
  · subst hi
    obtain ⟨hx : s.pins.irIn = true, rfl⟩ | ⟨hx : s.pins.irIn = false, rfl⟩ :=
      exec_irpoll_cases (by simp [canAccept_iff, hphase, hist, hrst]) he
    · exact .inl ⟨.inr ⟨⟨hf, hd⟩, hx⟩, false, rfl⟩
    · exact .inr ⟨by simp [PollEnds, hist, hx], rfl⟩
  · have notPoll : ¬ accepts .irpoll s := by simp [accepts, hd, hi]
    exact .inr ⟨by simp [PollEnds, notPoll, hist], (exec_irdRegs_rspRegs hi he).2⟩

/-- Everything a step without reset can do to the response registers (R36). -/
theorem step_response {s t : State} (hr : s.pins.rst = false) (h : step s = .next t) :
    RespondsAtPollEnd s t := by
  obtain ⟨-, ⟨hrst, -⟩ | ⟨-, hf, i, u, hd, he, rfl⟩ | ⟨-, hf, ⟨r, hd⟩, rfl⟩ | ⟨-, hf, rfl⟩⟩ :=
    step_cases h
  · simp [hr] at hrst
  · exact respondsAtPollEnd_endCycle (respondsAtPollEnd_exec hf hd he)
  · obtain ⟨-, -, hist, -⟩ := fire_iff.mp hf
    exact .inr ⟨by simp [PollEnds, accepts, hist, hd], by simp⟩
  · exact respondsAtPollEnd_endCycle (respondsAtPollEnd_unitsStep hf)

/-- Settles O15: the step's response, by whether a poll ends in it. -/
theorem responsePulsesExactlyWhenAPollEnds : Obligations.ResponsePulsesExactlyWhenAPollEnds := by
  intro s t hr h
  obtain ⟨hends, ok, hrsp⟩ | ⟨hends, hrsp⟩ := step_response hr h
  · obtain ⟨hv, ho, hc⟩ := RspRegs.mk.inj hrsp
    exact ⟨iff_of_true hv hends, by simp [hv], fun _ => by rw [hc, ho]; rfl⟩
  · obtain ⟨hv, ho, hc⟩ := RspRegs.mk.inj hrsp
    exact ⟨iff_of_false (by simp [hv]) hends, fun _ => ⟨ho, hc⟩, by simp [hv]⟩

/-! ## The wake registers (R37) -/

/-- Every step without reset writes the wake registers from the input and `ir_prev`. -/
theorem step_wake {s t : State} (hr : s.pins.rst = false) (h : step s = .next t) :
    t.irPrev = s.pins.irIn ∧ t.wake = (s.pins.irIn != s.irPrev) := by
  obtain ⟨-, ⟨hrst, -⟩ | ⟨-, -, i, u, -, he, rfl⟩ | ⟨-, -, -, rfl⟩ | ⟨-, -, rfl⟩⟩ := step_cases h
  · simp [hr] at hrst
  · obtain ⟨-, -, hpins, -, hprev, -⟩ := exec_sameSurroundings he
    simp [hpins, hprev]
  · simp
  · simp [unitsStep]

/-- A reset step sets `ir_prev` to the idle level (R42). -/
theorem step_irPrev_of_reset {s t : State} (hr : s.pins.rst = true) (h : step s = .next t) :
    t.irPrev = true := by
  obtain ⟨hp, -⟩ := step_cases h
  rw [step_of_reset hp hr] at h
  obtain rfl := Host.Outcome.next.inj h
  exact nextCycle_irPrev _

/-- Settles O14: every step samples the input into `ir_prev`, which the next step compares with. -/
theorem wakePulsesOnEveryEdge : Obligations.WakePulsesOnEveryEdge := by
  refine ⟨fun s hp hr => ?_, fun s t u hs ht h h' => ?_, fun s t u hs ht h h' => ?_⟩
  · obtain ⟨t, h⟩ := step_next hp
    obtain ⟨hprev, hwake⟩ := step_wake hr h
    exact ⟨t, h, hprev, by simp [hwake]⟩
  · simp [(step_wake ht h').2, (step_wake hs h).1]
  · simp [(step_wake ht h').2, step_irPrev_of_reset hs h]

/-! ## The command port (R23, R221) -/

/-- Settles O7: the decoder answers the accepted command and its meaning answers `t`. -/
theorem stepRunsTheAcceptedCommand : Obligations.StepRunsTheAcceptedCommand := by
  rintro i s t hp ⟨hfire, hdecode⟩ hexec
  exact step_of_fire_next hp hfire hdecode hexec

/-- A command offered to a block that cannot accept it changes nothing. -/
theorem exec_of_not_canAccept {s : State} (hc : s.canAccept = false) (i : Instr) :
    exec i s = .next s := by
  cases i <;> exact onAccept_of_not_canAccept hc _

/-- Another command on the port in this cycle. -/
def withPort (valid : Bool) (word : CmdWord) (s : State) : State :=
  { s with pins := { s.pins with cmdValid := valid, cmdWord := word } }

section
variable (valid : Bool) (word : CmdWord) (s : State)

/-- The end of a channel does not read the port. -/
theorem endChannel_withPort :
    endChannel (withPort valid word s) = withPort valid word (endChannel s) := by
  simp only [endChannel, apply_ite (withPort valid word)]
  rfl

/-- PTX does not read the port. -/
theorem ptxStep_withPort : ptxStep (withPort valid word s) = withPort valid word (ptxStep s) := by
  cases hph : s.phase with
  | idle => rw [ptxStep_of_idle hph, ptxStep_of_idle (s := withPort valid word s) hph]
  | high =>
    rw [ptxStep_of_high hph, ptxStep_of_high (s := withPort valid word s) hph]
    simp only [highStep, apply_ite (withPort valid word)]
    rfl
  | low =>
    rw [ptxStep_of_low hph, ptxStep_of_low (s := withPort valid word s) hph]
    simp only [lowStep, apply_ite (withPort valid word), endChannel_withPort]
    rfl
  | latch =>
    rw [ptxStep_of_latch hph, ptxStep_of_latch (s := withPort valid word s) hph]
    simp only [latchStep, apply_ite (withPort valid word)]
    rfl

/-- A sample does not read the port. -/
theorem takeSample_withPort (x : Level) :
    takeSample x (withPort valid word s) = withPort valid word (takeSample x s) := by
  unfold takeSample
  change applyVerdict (verdict s.params s.ist s.dur.toNat x) (withPort valid word s) = _
  cases verdict s.params s.ist s.dur.toNat x <;> rfl

/-- IRD does not read the port. -/
theorem irdStep_withPort : irdStep (withPort valid word s) = withPort valid word (irdStep s) := by
  by_cases hi : s.ist = .idle
  · rw [irdStep_of_idle hi, irdStep_of_idle (s := withPort valid word s) hi]
  · rw [irdStep_of_busy hi, irdStep_of_busy (s := withPort valid word s) hi,
      apply_ite (withPort valid word), ← takeSample_withPort]
    rfl

/-- The next cycle has its own port. -/
theorem nextCycle_withPort : nextCycle (withPort valid word s) = nextCycle s := by
  cases hf : s.feed with
  | nil => rw [nextCycle_of_nil hf, nextCycle_of_nil (s := withPort valid word s) hf]; rfl
  | cons p ps => rw [nextCycle_of_cons hf, nextCycle_of_cons (s := withPort valid word s) hf]; rfl

/-- A cycle without a command does not read the port. -/
theorem endCycle_unitsStep_withPort :
    endCycle (unitsStep (withPort valid word s).clearPulse) =
      endCycle (unitsStep s.clearPulse) := by
  calc endCycle (unitsStep (withPort valid word s).clearPulse)
      = endCycle (irdStep (ptxStep (withPort valid word s.clearPulse))) := rfl
    _ = endCycle (withPort valid word (unitsStep s.clearPulse)) := by
      rw [ptxStep_withPort, irdStep_withPort, unitsStep]
    _ = endCycle (unitsStep s.clearPulse) :=
      nextCycle_withPort valid word (unitsStep s.clearPulse).wakeStep

/-- Neither does a reset step. -/
theorem resetEdge_withPort : resetEdge (withPort valid word s) = resetEdge s :=
  nextCycle_withPort valid word
    { State.reset with params := s.params, cycle := s.cycle, pins := s.pins, feed := s.feed }

/-- The step of a busy block does not read the port. -/
theorem step_withPort {s : State} (hb : s.cmdReady = false) :
    step (withPort valid word s) = step s := by
  have noFire {t : State} (ht : t.cmdReady = false) : t.fire = false := by
    simp [State.fire, State.canAccept, ht]
  by_cases hp : meetsRules s.params
  · cases hr : s.pins.rst with
    | true =>
      rw [step_of_reset hp hr, step_of_reset (s := withPort valid word s) hp hr,
        resetEdge_withPort]
    | false =>
      rw [step_of_no_fire hp hr (noFire hb),
        step_of_no_fire (s := withPort valid word s) hp hr (noFire hb),
        endCycle_unitsStep_withPort]
  · rw [step_of_bad_parameters hp, step_of_bad_parameters (s := withPort valid word s) hp]

end

/-- Settles O12: acceptance needs a ready block without reset, and the units' steps do not read the
port. -/
theorem busyBlockIgnoresCommands : Obligations.BusyBlockIgnoresCommands := by
  refine ⟨fun i s h => exec_of_not_canAccept ?_ i, fun _ valid word => step_withPort valid word⟩
  obtain h | h := h <;> simp [State.canAccept, h]

/-! ## Widths (R26, R30, R32) -/

/-- The least width holds its number. -/
theorem lt_two_pow_leastWidth (n : Nat) : n < 2 ^ leastWidth n := by
  unfold leastWidth
  split
  case isTrue h => simp [h]
  case isFalse => exact Nat.lt_log2_self

/-- Settles O19: the invariant bounds each counter by the number its width is made for. -/
theorem countersFitTheirWidths : Obligations.CountersFitTheirWidths := fun _ h =>
  ⟨h.cntFits.trans_lt (lt_two_pow_leastWidth _), h.tickFits.trans_lt (lt_two_pow_leastWidth _),
    h.ncolFits⟩

/-- Only a HIGH phase drives the line (R24). -/
theorem BlockInv.dout_low {s : State} (h : BlockInv s) (hph : s.phase ≠ .high) : s.dout = false :=
  Bool.eq_false_iff.mpr (mt h.doutHigh.mp hph)

/-- Settles O18: only a HIGH phase drives the line, and no poll runs beside it. -/
theorem lineIsLowUnlessSending : Obligations.LineIsLowUnlessSending := by
  intro s h hcase
  obtain hph | hph | hist := hcase
  · exact h.dout_low (by simp [hph])
  · exact h.dout_low (by simp [hph])
  · exact h.dout_low (by simp [h.oneUnit.resolve_right hist])

/-! ## The invariant (R43), unit by unit -/

/-- What bounds the PTX registers during a transmission. -/
structure PtxSending (p : Params) (r : PtxRegs) : Prop where
  someBits : 1 ≤ r.nbits.toNat
  bitsFit  : r.nbits.toNat ≤ 8
  counting : 1 ≤ r.cnt
  cntFits  : r.cnt ≤ maxCnt p
  buffered : r.nch.toNat ≤ channelsPerColor p - 1
  ncolFits : r.ncol < 2 ^ p.cntW.bits

/-- What holds of the PTX registers while nothing is sent. -/
structure PtxResting (p : Params) (r : PtxRegs) : Prop where
  dout    : r.dout = false
  nbits   : r.nbits = 0#4
  nch     : r.nch = 0#2
  ncol    : r.ncol = 0
  cntFits : r.cnt ≤ maxCnt p

/-- The invariant of the PTX registers, by phase: (b) to (e) of R43 and the widths. -/
inductive PtxOk (p : Params) (r : PtxRegs) : Prop
  | idle (phase : r.phase = .idle) (resting : PtxResting p r)
  | high (phase : r.phase = .high) (dout : r.dout = true) (sending : PtxSending p r)
  | low (phase : r.phase = .low) (dout : r.dout = false) (sending : PtxSending p r)
  | latch (phase : r.phase = .latch) (counting : 1 ≤ r.cnt) (resting : PtxResting p r)

/-- What bounds the IRD registers during a decode. -/
structure IrdMeasuring (r : IrdRegs) : Prop where
  counted : 1 ≤ r.dur.toNat
  durFits : r.dur.toNat ≤ 254
  nrxFits : r.nrx.toNat ≤ 32
  full    : r.nrx = 32#6 → r.ist = .trailMark

/-- The invariant of the IRD registers, by whether a decode runs: (f) and (g) of R43. -/
inductive IrdOk (p : Params) (r : IrdRegs) : Prop
  | idle (ist : r.ist = .idle) (dur : r.dur = 0#8) (tickFits : r.tick ≤ p.tickDiv - 1)
  | measuring (ist : r.ist ≠ .idle) (decode : IrdMeasuring r) (tickFits : r.tick ≤ p.tickDiv - 1)

/-- The invariant of both units under the parameters `p`: R43 but for (h), the response. -/
structure UnitsOk (p : Params) (s : State) : Prop where
  oneUnit : s.phase = .idle ∨ s.ist = .idle
  ptx     : PtxOk p (ptxRegs s)
  ird     : IrdOk p (irdRegs s)

section
variable {p : Params} {r : PtxRegs}

theorem PtxOk.doutHigh (h : PtxOk p r) : r.dout = true ↔ r.phase = .high := by
  cases h with
  | idle hph hrest => simp [hph, hrest.dout]
  | high hph hd => simp [hph, hd]
  | low hph hd => simp [hph, hd]
  | latch hph _ hrest => simp [hph, hrest.dout]

theorem PtxOk.sending (h : PtxOk p r) (hph : r.phase = .high ∨ r.phase = .low) :
    PtxSending p r := by
  cases h with
  | idle hph' => simp [hph'] at hph
  | high _ _ hs => exact hs
  | low _ _ hs => exact hs
  | latch hph' => simp [hph'] at hph

theorem PtxOk.resting (h : PtxOk p r) (hph : r.phase = .idle ∨ r.phase = .latch) :
    PtxResting p r := by
  cases h with
  | idle _ hrest => exact hrest
  | high hph' => simp [hph'] at hph
  | low hph' => simp [hph'] at hph
  | latch _ _ hrest => exact hrest

/-- In every phase the registers are those of a transmission or at rest. -/
theorem PtxOk.sending_or_resting (h : PtxOk p r) : PtxSending p r ∨ PtxResting p r := by
  cases h with
  | idle _ hrest => exact .inr hrest
  | high _ _ hs => exact .inl hs
  | low _ _ hs => exact .inl hs
  | latch _ _ hrest => exact .inr hrest

theorem PtxOk.latching (h : PtxOk p r) (hph : r.phase = .latch) : 1 ≤ r.cnt := by
  cases h with
  | idle hph' => simp [hph'] at hph
  | high hph' => simp [hph'] at hph
  | low hph' => simp [hph'] at hph
  | latch _ hc => exact hc

theorem PtxOk.fits (h : PtxOk p r) :
    r.cnt ≤ maxCnt p ∧ r.nch.toNat ≤ channelsPerColor p - 1 ∧ r.ncol < 2 ^ p.cntW.bits := by
  obtain hs | hrest := h.sending_or_resting
  · exact ⟨hs.cntFits, hs.buffered, hs.ncolFits⟩
  · exact ⟨hrest.cntFits, by simp [hrest.nch], by simp [hrest.ncol]⟩

end

theorem BlockInv.ptxOk {s : State} (h : BlockInv s) : PtxOk s.params (ptxRegs s) := by
  have sending (hph : s.phase = .high ∨ s.phase = .low) : PtxSending s.params (ptxRegs s) := by
    obtain ⟨hsome, hfit, hcnt⟩ := h.sending hph
    exact ⟨hsome, hfit, hcnt, h.cntFits, h.buffered, h.ncolFits⟩
  have resting (hph : s.phase = .idle ∨ s.phase = .latch) :
      PtxResting s.params (ptxRegs s) := by
    obtain ⟨hbits, hch, hcol⟩ := h.atRest hph
    exact ⟨h.dout_low (by rintro hhigh; simp [hhigh] at hph), hbits, hch, hcol, h.cntFits⟩
  cases hph : s.phase with
  | idle => exact .idle hph (resting (.inl hph))
  | high => exact .high hph (h.doutHigh.mpr hph) (sending (.inl hph))
  | low => exact .low hph (h.dout_low (by simp [hph])) (sending (.inr hph))
  | latch => exact .latch hph (h.latching hph) (resting (.inr hph))

theorem BlockInv.irdOk {s : State} (h : BlockInv s) : IrdOk s.params (irdRegs s) := by
  by_cases hi : s.ist = .idle
  · exact .idle hi (h.noCount hi) h.tickFits
  · obtain ⟨hcounted, hdur, hnrx, hfull⟩ := h.measuring hi
    exact .measuring hi ⟨hcounted, hdur, hnrx, hfull⟩ h.tickFits

theorem BlockInv.unitsOk {s : State} (h : BlockInv s) : UnitsOk s.params s :=
  ⟨h.oneUnit, h.ptxOk, h.irdOk⟩

/-- R43 from its parts. -/
theorem blockInv_of_units {s : State} (rules : meetsRules s.params) (units : UnitsOk s.params s)
    (failZero : s.rspOk = false → s.rspCmd = 0x00#8) : BlockInv s := by
  obtain ⟨oneUnit, ptx, ird⟩ := units
  obtain ⟨cntFits, buffered, ncolFits⟩ := ptx.fits
  exact {
    rules, oneUnit, failZero, cntFits, buffered, ncolFits
    doutHigh := ptx.doutHigh
    sending := fun hph =>
      have hs := ptx.sending hph
      ⟨hs.someBits, hs.bitsFit, hs.counting⟩
    atRest := fun hph =>
      have hrest := ptx.resting hph
      ⟨hrest.nbits, hrest.nch, hrest.ncol⟩
    latching := ptx.latching
    measuring := fun hi => by
      cases ird with
      | idle hidle => exact absurd hidle hi
      | measuring _ hm => exact ⟨hm.counted, hm.durFits, hm.nrxFits, hm.full⟩
    noCount := fun hi => by
      cases ird with
      | idle _ hdur => exact hdur
      | measuring hbusy => exact absurd hi hbusy
    tickFits := by
      cases ird with
      | idle _ _ htick => exact htick
      | measuring _ _ htick => exact htick }

/-! ## Reset establishes the invariant -/

/-- The reset values of R42 meet the invariant. -/
theorem blockInv_of_reset_values {s : State} (hp : meetsRules s.params)
    (hptx : ptxRegs s = ptxRegs State.reset) (hird : irdRegs s = irdRegs State.reset)
    (hrsp : rspRegs s = rspRegs State.reset) : BlockInv s := by
  refine blockInv_of_units hp ⟨.inl (congrArg PtxRegs.phase hptx), ?_, ?_⟩
    fun _ => congrArg RspRegs.rspCmd hrsp
  · rw [hptx]
    exact .idle rfl ⟨rfl, rfl, rfl, rfl, Nat.zero_le _⟩
  · rw [hird]
    exact .idle rfl rfl (Nat.zero_le _)

theorem blockInv_resetEdge {s : State} (hp : meetsRules s.params) : BlockInv (resetEdge s) :=
  blockInv_of_reset_values (by rwa [resetEdge_params]) (ptxRegs_resetEdge s) (irdRegs_resetEdge s)
    (rspRegs_resetEdge s)

/-- Settles O17: `State.reset` and a reset step's next state hold the reset values. -/
theorem resetEstablishesTheInvariant : Obligations.ResetEstablishesTheInvariant := by
  refine ⟨blockInv_of_reset_values (by decide) rfl rfl rfl, fun s t hp hr h => ?_⟩
  rw [step_of_reset hp hr] at h
  obtain rfl := Host.Outcome.next.inj h
  exact blockInv_resetEdge hp

/-! ## PTX keeps its part -/

theorem cyc_add_gap_le_maxCnt (p : Params) : p.cyc + p.gap ≤ maxCnt p :=
  (le_max_left _ _).trans (le_max_right _ _)

theorem latchCyc_le_maxCnt (p : Params) : p.latchCyc ≤ maxCnt p :=
  (le_max_right _ _).trans (le_max_right _ _)

theorem channelsAfterFirst_toNat (p : Params) :
    (channelsAfterFirst p).toNat = channelsPerColor p - 1 := by
  unfold channelsAfterFirst channelsPerColor
  cases p.order <;> rfl

/-- A bit starts: the HIGH phase is loaded. -/
theorem ptxOk_of_bit {p : Params} {r : PtxRegs} (hp : meetsRules p) (b : Bool)
    (phase : r.phase = .high) (dout : r.dout = true) (cnt : r.cnt = highCycles p b)
    (someBits : 1 ≤ r.nbits.toNat) (bitsFit : r.nbits.toNat ≤ 8)
    (buffered : r.nch.toNat ≤ channelsPerColor p - 1) (ncolFits : r.ncol < 2 ^ p.cntW.bits) :
    PtxOk p r := by
  obtain ⟨hpos, hlt⟩ := highCycles_lt hp b
  have hmax := cyc_add_gap_le_maxCnt p
  exact .high phase dout
    { someBits, bitsFit, buffered, ncolFits, counting := by omega, cntFits := by omega }

/-- A channel starts, whatever is buffered behind it. -/
theorem ptxOk_of_channel {s : State} (hp : meetsRules s.params) (v b0 b1 b2 : Byte)
    {n : BitVec 2} {k : Nat} (hn : n.toNat ≤ channelsPerColor s.params - 1)
    (hk : k < 2 ^ s.params.cntW.bits) :
    PtxOk s.params
      (ptxRegs (setColorsLeft k (bufferChannels b0 b1 b2 n (startChannel v s)))) :=
  ptxOk_of_bit hp v[7] rfl rfl rfl (show 1 ≤ (8#4).toNat by decide)
    (show (8#4).toNat ≤ 8 by decide) hn hk

/-- A zero color starts, with no more to follow than fit (R104, R107). -/
theorem ptxOk_startZeroColor {s : State} {k : Nat} (hp : meetsRules s.params)
    (hk : k < 2 ^ s.params.cntW.bits) : PtxOk s.params (ptxRegs (startZeroColor k s)) :=
  ptxOk_of_channel hp _ _ _ _ (channelsAfterFirst_toNat s.params).le hk

/-- A cycle of a phase that goes on: `cnt` counts down and stays at least 1. -/
theorem PtxSending.countDown {s : State} (h : PtxSending s.params (ptxRegs s)) (hc : 1 < s.cnt) :
    PtxSending s.params (ptxRegs { s with cnt := s.cnt - 1 }) :=
  { h with
    counting := Nat.le_sub_one_of_lt hc
    cntFits := (Nat.sub_le s.cnt 1).trans h.cntFits }

/-- The end of a channel (R107): the next channel, the next zero color, or rest. -/
theorem ptxOk_endChannel {s : State} (hp : meetsRules s.params) (hd : s.dout = false)
    (h : PtxSending s.params (ptxRegs s)) : PtxOk s.params (ptxRegs (endChannel s)) := by
  unfold endChannel
  split
  case isTrue hch =>
    have hdec : (s.nch - 1#2).toNat ≤ s.nch.toNat := by bv_omega
    exact ptxOk_of_channel hp _ _ _ _ (hdec.trans h.buffered) h.ncolFits
  case isFalse hch =>
    split
    case isTrue hcol => exact ptxOk_startZeroColor hp ((Nat.sub_le s.ncol 1).trans_lt h.ncolFits)
    case isFalse hcol =>
      have hch0 : s.nch = 0#2 := BitVec.eq_of_toNat_eq (Nat.eq_zero_of_not_pos hch)
      exact .idle rfl ⟨hd, rfl, hch0, Nat.eq_zero_of_not_pos hcol, h.cntFits⟩

/-- `P_HIGH` (R105): the LOW remainder is at least 1, since both HIGH times are below CYC. -/
theorem ptxOk_highStep {s : State} (hp : meetsRules s.params) (hph : s.phase = .high)
    (hd : s.dout = true) (h : PtxSending s.params (ptxRegs s)) :
    PtxOk s.params (ptxRegs (highStep s)) := by
  unfold highStep
  split
  case isTrue hc => exact .high hph hd (h.countDown hc)
  case isFalse =>
    obtain ⟨hpos, hlt⟩ := highCycles_lt hp s.sr[7]
    have hmax := cyc_add_gap_le_maxCnt s.params
    have hgap : (if s.nbits = 1#4 then s.params.gap else 0) ≤ s.params.gap := by split <;> omega
    exact .low rfl rfl
      { h with
        counting := (Nat.sub_pos_of_lt hlt).trans_le (Nat.le_add_right _ _)
        cntFits := (Nat.add_le_add (Nat.sub_le _ _) hgap).trans hmax }

/-- `P_LOW` (R106): the next bit of the channel, or its end. -/
theorem ptxOk_lowStep {s : State} (hp : meetsRules s.params) (hph : s.phase = .low)
    (hd : s.dout = false) (h : PtxSending s.params (ptxRegs s)) :
    PtxOk s.params (ptxRegs (lowStep s)) := by
  unfold lowStep
  split
  case isTrue hc => exact .low hph hd (h.countDown hc)
  case isFalse =>
    split
    case isTrue hbits =>
      have hfit : s.nbits.toNat ≤ 8 := h.bitsFit
      have hdec : (s.nbits - 1#4).toNat = s.nbits.toNat - 1 := by bv_omega
      exact ptxOk_of_bit hp s.sr[6] rfl rfl rfl (show 1 ≤ (s.nbits - 1#4).toNat by omega)
        (show (s.nbits - 1#4).toNat ≤ 8 by omega) h.buffered h.ncolFits
    case isFalse => exact ptxOk_endChannel hp hd h

/-- `P_LATCH` (R108). -/
theorem ptxOk_latchStep {s : State} (hph : s.phase = .latch)
    (h : PtxResting s.params (ptxRegs s)) : PtxOk s.params (ptxRegs (latchStep s)) := by
  unfold latchStep
  split
  case isTrue hc =>
    exact .latch hph (Nat.le_sub_one_of_lt hc)
      { h with cntFits := (Nat.sub_le s.cnt 1).trans h.cntFits }
  case isFalse => exact .idle rfl { h with }

/-- The PTX step keeps the PTX part. -/
theorem ptxOk_ptxStep {s : State} (hp : meetsRules s.params) (h : PtxOk s.params (ptxRegs s)) :
    PtxOk s.params (ptxRegs (ptxStep s)) := by
  cases h with
  | idle hph hrest => rw [ptxStep_of_idle hph]; exact .idle hph hrest
  | high hph hd hs => rw [ptxStep_of_high hph]; exact ptxOk_highStep hp hph hd hs
  | low hph hd hs => rw [ptxStep_of_low hph]; exact ptxOk_lowStep hp hph hd hs
  | latch hph _ hrest => rw [ptxStep_of_latch hph]; exact ptxOk_latchStep hph hrest

/-- Every command whose count fits keeps the PTX part. -/
theorem ptxOk_exec {i : Instr} {s t : State} (hp : meetsRules s.params)
    (hw : wellFormed s.params.cntW i = true) (h : PtxOk s.params (ptxRegs s))
    (he : exec i s = .next t) : PtxOk s.params (ptxRegs t) := by
  have noneLeft : 0 < 2 ^ s.params.cntW.bits := Nat.two_pow_pos _
  have keep {u : State} (hu : onAccept s u = .next t) (hok : PtxOk s.params (ptxRegs u)) :
      PtxOk s.params (ptxRegs t) :=
    onAccept_induct (P := fun v => PtxOk s.params (ptxRegs v)) hu h hok
  cases i with
  | sendch value => exact keep he (ptxOk_of_channel hp value _ _ _ (Nat.zero_le _) noneLeft)
  | wrcolor r g b w =>
    exact keep he (ptxOk_of_channel hp _ _ _ _ (channelsAfterFirst_toNat s.params).le noneLeft)
  | clear n =>
    refine keep he ?_
    split
    case isTrue =>
      have hn : n < 2 ^ s.params.cntW.bits := of_decide_eq_true hw
      exact ptxOk_startZeroColor hp ((Nat.sub_le n 1).trans_lt hn)
    case isFalse => exact h
  | latch =>
    obtain ⟨hc, rfl⟩ | ⟨-, rfl⟩ := onAccept_eq_next he
    · obtain ⟨hphase, -, -⟩ := canAccept_iff.mp hc
      obtain ⟨⟨-, -, -, -, hlatch, -⟩, -⟩ := hp
      exact .latch rfl hlatch
        { h.resting (.inl hphase) with cntFits := latchCyc_le_maxCnt s.params }
    · exact h
  | irpoll => exact keep he (by split <;> exact h)

/-! ## IRD keeps its part -/

/-- A decode that is not at the end of its data has room for another bit. -/
theorem IrdMeasuring.nrx_lt {r : IrdRegs} (h : IrdMeasuring r) (ht : r.ist ≠ .trailMark) :
    r.nrx.toNat < 32 :=
  lt_of_le_of_ne h.nrxFits fun hn => ht (h.full (BitVec.eq_of_toNat_eq hn))

/-- An interval begins with one sample counted (R149). -/
theorem irdOk_of_interval {p : Params} {r : IrdRegs} (hi : r.ist ≠ .idle) (hdur : r.dur = 1#8)
    (nrxFits : r.nrx.toNat ≤ 32) (full : r.nrx = 32#6 → r.ist = .trailMark)
    (ht : r.tick ≤ p.tickDiv - 1) : IrdOk p r :=
  .measuring hi
    { nrxFits, full, counted := by rw [hdur]; decide, durFits := by rw [hdur]; decide } ht

/-- A received bit (R153): the last one leads to the trail mark. -/
theorem irdOk_receiveBit {s : State} (b : Bool) (hn : s.nrx.toNat < 32)
    (ht : s.tick ≤ s.params.tickDiv - 1) : IrdOk s.params (irdRegs (receiveBit b s)) := by
  have hnext : (s.nrx + 1#6).toNat = s.nrx.toNat + 1 := by bv_omega
  exact irdOk_of_interval (receiveBit_ist_ne_idle b s) rfl
    (show (s.nrx + 1#6).toNat ≤ 32 by omega)
    (fun hfull => (receiveBit_ist b s).trans (if_pos hfull)) ht

/-- A sample keeps the IRD part: the count has room below the limit of its state. -/
theorem irdOk_takeSample {s : State} (x : Level) (hp : meetsRules s.params) (hi : s.ist ≠ .idle)
    (h : IrdMeasuring (irdRegs s)) (ht : s.tick ≤ s.params.tickDiv - 1) :
    IrdOk s.params (irdRegs (takeSample x s)) := by
  obtain he | ⟨hlt, he⟩ | ⟨htrail, n, hn, he⟩ | ⟨hbit, b, he⟩ | he := takeSample_cases x hi <;>
    rw [he]
  · exact .idle rfl rfl ht
  · have hlimit := limitOf_le hp s.ist
    have hnext : (s.dur + 1#8).toNat = s.dur.toNat + 1 := by bv_omega
    exact .measuring hi
      { h with
        counted := show 1 ≤ (s.dur + 1#8).toNat by omega
        durFits := show (s.dur + 1#8).toNat ≤ 254 by omega } ht
  · have hroom : s.nrx.toNat < 32 := h.nrx_lt htrail
    have notFull : s.nrx ≠ 32#6 := by rintro hn; simp [hn] at hroom
    exact irdOk_of_interval hn rfl hroom.le (fun hfull => absurd hfull notFull) ht
  · exact irdOk_receiveBit b (h.nrx_lt (by simp [irdRegs, hbit])) ht
  · exact .idle rfl rfl ht

/-- The IRD step keeps the IRD part. -/
theorem irdOk_irdStep {s : State} (hp : meetsRules s.params) (h : IrdOk s.params (irdRegs s)) :
    IrdOk s.params (irdRegs (irdStep s)) := by
  cases h with
  | idle hi hdur htick => rw [irdStep_of_idle hi]; exact .idle hi hdur htick
  | measuring hi hm htick =>
    rw [irdStep_of_busy hi]
    split
    · exact .measuring hi { hm with } ((Nat.sub_le s.tick 1).trans htick)
    · exact irdOk_takeSample (s := { s with tick := s.params.tickDiv - 1 }) s.pins.irIn hp hi
        { hm with } le_rfl

/-- Every command keeps the IRD part: a poll starts its decode with one sample counted (R142). -/
theorem irdOk_exec {i : Instr} {s t : State} (h : IrdOk s.params (irdRegs s))
    (he : exec i s = .next t) : IrdOk s.params (irdRegs t) := by
  by_cases hi : i = .irpoll
  · subst hi
    refine onAccept_induct (P := fun u => IrdOk s.params (irdRegs u)) he h ?_
    split
    case isTrue => exact h
    case isFalse =>
      exact irdOk_of_interval (r := irdRegs (beginDecode s)) IrState.noConfusion rfl
        (Nat.zero_le 32) (fun hfull => absurd hfull (show 0#6 ≠ 32#6 by decide)) le_rfl
  · rwa [(exec_irdRegs_rspRegs hi he).1]

/-! ## The step keeps the invariant -/

/-- A decoded CLEAR count fits `CNT_W` bits (R74, R78). -/
theorem wellFormed_of_decode {cw : CntWidth} {w : CmdWord} {i : Instr}
    (h : decode cw w = .ok i) : wellFormed cw i = true := by
  cases i with
  | sendch | wrcolor | latch | irpoll => rfl
  | clear n =>
    have hn : n = argCount cw w := by
      obtain ⟨-, e⟩ | ⟨-, e⟩ | ⟨-, e⟩ | ⟨-, e⟩ | ⟨-, e⟩ | ⟨-, -, -, -, -, e⟩ :=
        decode_cases cw w <;> rw [e] at h <;> cases h
      rfl
    rw [hn]
    exact decide_eq_true (Nat.mod_lt _ (Nat.two_pow_pos _))

/-- R43 (a) in the cycle of a command: it starts one unit only. -/
theorem exec_oneUnit {i : Instr} {s t : State} (hphase : s.phase = .idle) (hist : s.ist = .idle)
    (he : exec i s = .next t) : t.phase = .idle ∨ t.ist = .idle := by
  by_cases hi : i = .irpoll
  · subst hi
    exact .inl ((congrArg PtxRegs.phase (exec_irpoll_ptxRegs he)).trans hphase)
  · exact .inr ((congrArg IrdRegs.ist (exec_irdRegs_rspRegs hi he).1).trans hist)

/-- A command that fires keeps the invariant of both units. -/
theorem unitsOk_exec {i : Instr} {s u : State} (hs : BlockInv s) (hf : s.fire = true)
    (hd : decode s.params.cntW s.pins.cmdWord = .ok i) (he : exec i s.clearPulse = .next u) :
    UnitsOk s.params u := by
  obtain ⟨-, hphase, hist, -⟩ := fire_iff.mp hf
  exact ⟨exec_oneUnit (s := s.clearPulse) hphase hist he,
    ptxOk_exec (s := s.clearPulse) hs.rules (wellFormed_of_decode hd) hs.ptxOk he,
    irdOk_exec (s := s.clearPulse) hs.irdOk he⟩

/-- So does a cycle without a command: an idle unit stays idle. -/
theorem unitsOk_unitsStep {s : State} (hs : BlockInv s) : UnitsOk s.params (unitsStep s) := by
  have hptx : PtxOk s.params (ptxRegs (ptxStep s)) := ptxOk_ptxStep hs.rules hs.ptxOk
  have hird : IrdOk (ptxStep s).params (irdRegs (ptxStep s)) := by simpa using hs.irdOk
  unfold unitsStep
  refine ⟨hs.oneUnit.imp (fun hphase => ?_) (fun hist => ?_), by simpa using hptx, ?_⟩
  · simp [hphase]
  · simp [hist]
  · simpa using irdOk_irdStep (by simpa using hs.rules) hird

/-- And so does the end of a cycle. -/
theorem unitsOk_endCycle {p : Params} {s : State} (h : UnitsOk p s) : UnitsOk p (endCycle s) :=
  ⟨by simpa using h.oneUnit, by simpa using h.ptx, by simpa using h.ird⟩

theorem BlockInv.clearPulse {s : State} (h : BlockInv s) : BlockInv s.clearPulse := { h with }

/-- R43 (h): a step that ends no poll leaves the response, a FAIL writes 0. -/
theorem failZero_of_step {s t : State} (hs : BlockInv s) (hr : s.pins.rst = false)
    (h : step s = .next t) : t.rspOk = false → t.rspCmd = 0x00#8 := by
  obtain ⟨-, ok, hrsp⟩ | ⟨-, hrsp⟩ := step_response hr h
  · obtain ⟨-, ho, hc⟩ := RspRegs.mk.inj hrsp
    intro hfail
    rw [hc, if_neg (by rw [← ho, hfail]; decide)]
  · obtain ⟨-, ho, hc⟩ := RspRegs.mk.inj hrsp
    rw [ho, hc]
    exact hs.failZero

/-- Settles O16, by what a step can do. -/
theorem everyStepKeepsTheInvariant : Obligations.EveryStepKeepsTheInvariant := by
  intro s t hs h
  have ofUnits (hr : s.pins.rst = false) (hok : UnitsOk s.params t) : BlockInv t :=
    blockInv_of_units (by rw [step_params h]; exact hs.rules) (by rwa [step_params h])
      (failZero_of_step hs hr h)
  obtain ⟨-, ⟨-, ht⟩ | ⟨hr, hf, i, u, hd, he, ht⟩ | ⟨hr, -, -, ht⟩ | ⟨hr, -, ht⟩⟩ := step_cases h
  · exact ht ▸ blockInv_resetEdge hs.rules
  · exact ofUnits hr (ht ▸ unitsOk_endCycle (unitsOk_exec hs hf hd he))
  · exact ofUnits hr (ht ▸ unitsOk_endCycle hs.clearPulse.unitsOk)
  · exact ofUnits hr (ht ▸ unitsOk_endCycle (unitsOk_unitsStep hs.clearPulse))

end Sys2Proof.Machine
end

section
/-! PROOFS of the memory family: the waveforms of SENDCH and WRCOLOR (R52, R53, R81 to R83, R102,
R103, R110). A channel is an induction over its bits, a color one over the channels that wait. -/

namespace Sys2Proof.Machine

/-! ## What is left to send -/

/-- The first `k` bits of a channel value as they leave `sr`, most significant first (R52, R106). -/
def leadingBits : Nat → Byte → List Bool
  | 0, _     => []
  | k + 1, v => v[7] :: leadingBits k (v <<< 1)

/-- Shifting `sr` once a bit sends the bits in the order of R52. -/
theorem leadingBits_eight (v : Byte) : leadingBits 8 v = lineBits v := by
  simp [leadingBits, lineBits]

/-- The channel values that wait in `chbuf`, next first (R29), and the zero colors behind them
(R30). -/
def PtxRegs.queue (r : PtxRegs) : List Byte × Nat :=
  ([r.chbuf0, r.chbuf1, r.chbuf2].take r.nch.toNat, r.ncol)

theorem queue_ptxRegs_eq_iff {s : State} {vs : List Byte} {m : Nat} :
    (ptxRegs s).queue = (vs, m) ↔
      [s.chbuf0, s.chbuf1, s.chbuf2].take s.nch.toNat = vs ∧ s.ncol = m :=
  Prod.mk_inj

/-- LOW cycles after the bit cycle with `k` bits of the channel not yet finished (R82, R105). -/
def gapAfter (p : Params) (k : Nat) : Nat := if k = 1 then p.gap else 0

/-- The first cycle of a bit: `k` bits of the channel are not yet finished, the leading ones of
`v`. -/
structure BitStarts (p : Params) (k : Nat) (v : Byte) (r : PtxRegs) : Prop where
  phase : r.phase = .high
  dout  : r.dout = true
  cnt   : r.cnt = highCycles p v[7]
  sr    : r.sr = v
  nbits : r.nbits.toNat = k

/-- The last cycle of that bit. -/
structure BitEnds (k : Nat) (v : Byte) (s : State) : Prop where
  dout  : s.dout = false
  cnt   : s.cnt = 1
  sr    : s.sr = v
  nbits : s.nbits.toNat = k

/-- The PTX registers of `t` are those of the cycle after a bit with `q` queued behind its channel. -/
def AfterBit (p : Params) (k : Nat) (v : Byte) (q : List Byte × Nat) (t : State) : Prop :=
  ∃ u, ptxRegs t = ptxRegs (lowStep u) ∧ u.params = p ∧ BitEnds k v u ∧
    (ptxRegs u).queue = q

/-- The PTX registers of `t` are those of the cycle after a channel with `q` queued behind it
(R107). -/
def AfterChannel (p : Params) (q : List Byte × Nat) (t : State) : Prop :=
  ∃ u, ptxRegs t = ptxRegs (endChannel u) ∧ u.params = p ∧ u.dout = false ∧ (ptxRegs u).queue = q

/-! ## One bit (R81, R105, R106) -/

theorem nbits_eq_one_iff {b : BitVec 4} {k : Nat} (h : b.toNat = k) : b = 1#4 ↔ k = 1 := by
  rw [← h, BitVec.toNat_eq]; rfl

/-- The end of a HIGH phase (R105): the LOW remainder and the `GAP` are loaded. -/
theorem ptxRegs_highStep_of_bit {p : Params} {k : Nat} {v : Byte} {s : State} (hp : s.params = p)
    (hs : BitStarts p k v (ptxRegs s)) :
    ptxRegs (highStep { s with cnt := 1 }) =
      { ptxRegs s with
        dout := false, phase := .low, cnt := p.cyc - highCycles p v[7] + gapAfter p k } := by
  have hsr : s.sr = v := hs.sr
  have hgap : (if s.nbits = 1#4 then p.gap else 0) = gapAfter p k :=
    if_congr (nbits_eq_one_iff hs.nbits) rfl rfl
  simp [highStep, ptxRegs, hp, hsr, hgap]

/-- A bit: its HIGH phase, then its LOW phase and the `GAP` if it is the channel's last. -/
theorem bitRun {p : Params} (hp : meetsRules p) (n : Nat) {k : Nat} {v : Byte} {s : State}
    (hs : BitStarts p k v (ptxRegs s)) (hc : PtxAlone (p.cyc + gapAfter p k + n) p s) :
    ∃ t, Sends (bitWave p v[7] ++ List.replicate (gapAfter p k) false) s t ∧
      AfterBit p k v (ptxRegs s).queue t ∧ PtxAlone n p t := by
  obtain ⟨hpos, hlt⟩ := highCycles_lt hp v[7]
  obtain ⟨h, hh⟩ : ∃ h, highCycles p v[7] = h + 1 := Nat.exists_eq_add_one.mpr hpos
  obtain ⟨l, hl⟩ : ∃ l, p.cyc - highCycles p v[7] + gapAfter p k = l + 1 :=
    Nat.exists_eq_add_one.mpr (Nat.add_pos_left (Nat.sub_pos_of_lt hlt) _)
  obtain ⟨t, hhigh, ht, hct⟩ := highRun hp h (l + 1 + n) hs.phase (hs.cnt.trans hh) hs.dout
    (by rwa [show h + 1 + (l + 1 + n) = p.cyc + gapAfter p k + n by omega])
  rw [ptxRegs_highStep_of_bit hc.params hs] at ht
  obtain ⟨hdout, hphase, hcnt, hsr, hnbits, -⟩ := PtxRegs.mk.inj ht
  have hqueue : (ptxRegs t).queue = (ptxRegs s).queue := by rw [ht]; rfl
  obtain ⟨u, hlow, hu, hcu⟩ := lowRun hp l n hphase (hcnt.trans hl) hdout hct
  refine ⟨u, ?_, ⟨{ t with cnt := 1 }, hu, hct.params, ?_, hqueue⟩, hcu⟩
  · rw [bitWave, pulse, List.append_assoc, List.replicate_append_replicate, hl, hh]
    exact hhigh.append hlow
  · exact ⟨hdout, rfl, hsr.trans hs.sr, (congrArg BitVec.toNat hnbits).trans hs.nbits⟩

/-- Inside a channel the next bit follows (R106). -/
theorem AfterBit.nextBit {p : Params} {k : Nat} {v : Byte} {q : List Byte × Nat} {t : State}
    (h : AfterBit p (k + 2) v q t) :
    BitStarts p (k + 1) (v <<< 1) (ptxRegs t) ∧ (ptxRegs t).queue = q := by
  obtain ⟨u, ht, rfl, ⟨-, hcnt, rfl, hnbits⟩, rfl⟩ := h
  have hdec : (u.nbits - 1#4).toNat = k + 1 := by bv_omega
  rw [ht, lowStep, if_neg (by omega), if_pos (by omega)]
  exact ⟨⟨rfl, rfl, by simp [ptxRegs], rfl, hdec⟩, rfl⟩

/-- The last bit ends the channel (R106, R107). -/
theorem AfterBit.afterChannel {p : Params} {v : Byte} {q : List Byte × Nat} {t : State}
    (h : AfterBit p 1 v q t) : AfterChannel p q t := by
  obtain ⟨u, ht, hp, ⟨hdout, hcnt, -, hnbits⟩, hq⟩ := h
  rw [lowStep, if_neg (by omega), if_neg (by omega)] at ht
  exact ⟨u, ht, hp, hdout, hq⟩

/-! ## One channel (R82) -/

/-- The rest of a channel, by induction over its bits. -/
theorem channelBitsRun {p : Params} (hp : meetsRules p) (n k : Nat) {v : Byte} {s : State}
    (hs : BitStarts p (k + 1) v (ptxRegs s)) (hc : PtxAlone ((k + 1) * p.cyc + p.gap + n) p s) :
    ∃ t, Sends ((leadingBits (k + 1) v).flatMap (bitWave p) ++ List.replicate p.gap false) s t ∧
      AfterChannel p (ptxRegs s).queue t ∧ PtxAlone n p t := by
  induction k generalizing v s with
  | zero =>
    obtain ⟨t, hsend, hafter, hct⟩ := bitRun hp n hs (by simpa [gapAfter] using hc)
    exact ⟨t, by simpa [leadingBits, gapAfter] using hsend, hafter.afterChannel, hct⟩
  | succ k ih =>
    have hgap : gapAfter p (k + 1 + 1) = 0 := if_neg (by omega)
    have hcycles : p.cyc + gapAfter p (k + 1 + 1) + ((k + 1) * p.cyc + p.gap + n) =
        (k + 1 + 1) * p.cyc + p.gap + n := by rw [hgap, Nat.succ_mul (k + 1)]; omega
    obtain ⟨t, hbit, hafter, hct⟩ :=
      bitRun hp ((k + 1) * p.cyc + p.gap + n) hs (by rwa [hcycles])
    obtain ⟨hnext, hq⟩ := hafter.nextBit
    obtain ⟨u, hrest, hend, hcu⟩ := ih hnext hct
    refine ⟨u, ?_, hq ▸ hend, hcu⟩
    simpa [leadingBits, hgap] using hbit.append hrest

/-- A whole channel. -/
theorem channelRun {p : Params} (hp : meetsRules p) (n : Nat) {v : Byte} {s : State}
    (hs : BitStarts p 8 v (ptxRegs s)) (hc : PtxAlone (channelCycles p + n) p s) :
    ∃ t, Sends (channelWave p v) s t ∧ AfterChannel p (ptxRegs s).queue t ∧ PtxAlone n p t := by
  rw [channelWave, ← leadingBits_eight]
  exact channelBitsRun hp n 7 hs hc

/-! ## Channels back to back (R83, R107) -/

/-- A channel starts (R101), whatever is queued behind it. -/
theorem bitStarts_of_channel (v b0 b1 b2 : Byte) (n : BitVec 2) (k : Nat) (s : State) :
    BitStarts s.params 8 v
      (ptxRegs (setColorsLeft k (bufferChannels b0 b1 b2 n (startChannel v s)))) :=
  ⟨rfl, rfl, rfl, rfl, rfl⟩

/-- After a channel the next one that waits starts. -/
theorem AfterChannel.nextChannel {p : Params} {v : Byte} {vs : List Byte} {m : Nat} {t : State}
    (h : AfterChannel p (v :: vs, m) t) :
    BitStarts p 8 v (ptxRegs t) ∧ (ptxRegs t).queue = (vs, m) := by
  obtain ⟨u, ht, rfl, -, hq⟩ := h
  obtain ⟨hwait, rfl⟩ := queue_ptxRegs_eq_iff.mp hq
  have hpos : 0 < u.nch.toNat := Nat.pos_of_ne_zero fun h0 => by simp [h0] at hwait
  have hdec : (u.nch - 1#2).toNat = u.nch.toNat - 1 := by bv_omega
  obtain ⟨c, hc⟩ : ∃ c, u.nch.toNat = c + 1 := Nat.exists_eq_add_one.mpr hpos
  have hfit : c ≤ 2 := by omega
  rw [hc, List.take_succ_cons] at hwait
  obtain ⟨rfl, rfl⟩ := List.cons.inj hwait
  rw [ht, endChannel, if_pos hpos]
  refine ⟨bitStarts_of_channel u.chbuf0 u.chbuf1 u.chbuf2 0x00#8 (u.nch - 1#2) u.ncol u,
    queue_ptxRegs_eq_iff.mpr ⟨?_, rfl⟩⟩
  simp only [bufferChannels_chbuf0, bufferChannels_chbuf1, bufferChannels_chbuf2,
    bufferChannels_nch, hdec, hc, Nat.add_sub_cancel]
  exact List.take_append_of_le_length (l₁ := [u.chbuf1, u.chbuf2]) hfit

/-- After the last channel of a command PTX is idle and the line LOW. -/
theorem AfterChannel.complete {p : Params} {t : State} (h : AfterChannel p ([], 0) t) :
    t.phase = .idle ∧ t.dout = false := by
  obtain ⟨u, ht, -, hdout, hq⟩ := h
  obtain ⟨hwait, hcol⟩ := queue_ptxRegs_eq_iff.mp hq
  have hch : u.nch.toNat = 0 := by simpa using hwait
  rw [endChannel, if_neg (by omega), if_neg (by omega)] at ht
  exact ⟨congrArg PtxRegs.phase ht, (congrArg PtxRegs.dout ht).trans hdout⟩

/-- A channel and all that wait behind it, by induction over those. -/
theorem channelsRun {p : Params} (hp : meetsRules p) (n : Nat) {v : Byte} {vs : List Byte} {m : Nat}
    {s : State} (hs : BitStarts p 8 v (ptxRegs s)) (hq : (ptxRegs s).queue = (vs, m))
    (hc : PtxAlone ((v :: vs).length * channelCycles p + n) p s) :
    ∃ t, Sends (channelsWave p (v :: vs)) s t ∧ AfterChannel p ([], m) t ∧ PtxAlone n p t := by
  induction vs generalizing v s with
  | nil =>
    obtain ⟨t, hsend, hafter, hct⟩ := channelRun hp n hs (by simpa using hc)
    exact ⟨t, by simpa [channelsWave] using hsend, hq ▸ hafter, hct⟩
  | cons w vs ih =>
    have hcycles : channelCycles p + ((w :: vs).length * channelCycles p + n) =
        (v :: w :: vs).length * channelCycles p + n := by
      rw [List.length_cons (a := v), Nat.succ_mul]; omega
    obtain ⟨t, hfirst, hafter, hct⟩ :=
      channelRun hp ((w :: vs).length * channelCycles p + n) hs (by rwa [hcycles])
    obtain ⟨hnext, hrest⟩ := AfterChannel.nextChannel (hq ▸ hafter)
    obtain ⟨u, hsend, hend, hcu⟩ := ih hnext hrest hct
    exact ⟨u, hfirst.append hsend, hend, hcu⟩

/-! ## The command that sends them -/

/-- After a command for PTX fires, PTX runs alone for as long as the inputs are known. -/
theorem ptxAlone_endCycle_exec {i : Instr} {n : Nat} {s u : State} (ha : accepts i s)
    (hi : i ≠ .irpoll) (hr : resetFree (n + 1) s = true) (he : exec i s.clearPulse = .next u) :
    PtxAlone n s.params (endCycle u) := by
  obtain ⟨-, -, hist, -⟩ := fire_iff.mp ha.1
  obtain ⟨hparams, -, -, hfeed, -⟩ := exec_sameSurroundings he
  have hidle : u.ist = .idle := (congrArg IrdRegs.ist (exec_irdRegs_rspRegs hi he).1).trans hist
  exact ⟨(endCycle_params u).trans hparams, (endCycle_ist u).trans hidle,
    (resetFree_succ hr).2 _ fun q qs hq => endCycle_pins_cons (hfeed.trans hq)⟩

/-- A command that starts the channel `v` with `vs` and no zero color behind it sends them. -/
theorem sendsWave_of_exec {i : Instr} {v : Byte} {vs : List Byte} {s u : State}
    (hs : BlockInv s) (ha : accepts i s) (hi : i ≠ .irpoll)
    (hr : resetFree (1 + (v :: vs).length * channelCycles s.params) s = true)
    (he : exec i s.clearPulse = .next u) (hv : BitStarts s.params 8 v (ptxRegs u))
    (hq : (ptxRegs u).queue = (vs, 0)) : sendsWave s (channelsWave s.params (v :: vs)) := by
  rw [Nat.add_comm] at hr
  obtain ⟨t, hsend, hafter, hct⟩ := channelsRun hs.rules 0 (s := endCycle u) (by simpa using hv)
    (by simpa using hq) (ptxAlone_endCycle_exec ha hi hr he)
  obtain ⟨hdouts, hreadies, hrun⟩ := hsend.trace_eq
  obtain ⟨hphase, hdout⟩ := hafter.complete
  exact ⟨endCycle u, step_of_fire_next hs.rules ha.1 ha.2 he, hdouts, hreadies, t, hrun,
    cmdReady_iff.mpr ⟨hphase, hct.ist⟩, hdout⟩

/-- A command that fires finds a block that accepts it. -/
theorem accepts.canAccept {i : Instr} {s : State} (h : accepts i s) :
    s.clearPulse.canAccept = true :=
  canAccept_iff.mpr (fire_iff.mp h.1).2

/-! ## Durations (R81 to R83) -/

theorem length_bitWave {p : Params} (hp : meetsRules p) (b : Bool) :
    (bitWave p b).length = p.cyc := by
  have hlt := (highCycles_lt hp b).2
  simp [bitWave, pulse]
  omega

theorem length_channelWave {p : Params} (hp : meetsRules p) (v : Byte) :
    (channelWave p v).length = channelCycles p := by
  simp [channelWave, lineBits, length_bitWave hp, channelCycles]
  omega

theorem length_channelsWave {p : Params} (hp : meetsRules p) (vs : List Byte) :
    (channelsWave p vs).length = vs.length * channelCycles p := by
  simp [channelsWave, List.length_flatMap, length_channelWave hp]

/-! ## SENDCH and WRCOLOR -/

/-- Settles O32: SENDCH starts one channel with nothing behind it. -/
theorem sendchSendsItsChannelWaveform : Obligations.SendchSendsItsChannelWaveform := by
  intro v s hs ha hr
  refine ⟨?_, length_channelWave hs.rules v⟩
  have hwave : sendsWave s (channelsWave s.params [v]) :=
    sendsWave_of_exec hs ha Instr.noConfusion (by simpa using hr)
      (onAccept_of_canAccept ha.canAccept _)
      (bitStarts_of_channel v s.chbuf0 s.chbuf1 s.chbuf2 0#2 0 s.clearPulse) rfl
  simpa [channelsWave] using hwave

/-- The channels of a color: the first one, then those that wait (R53, R103). -/
theorem sentChannels_eq_cons (p : Params) (r g b w : Byte) :
    sentChannels p r g b w =
      (lineOrder p.order r g b w).c0 ::
        [(lineOrder p.order r g b w).c1, (lineOrder p.order r g b w).c2,
          (lineOrder p.order r g b w).c3].take (channelsAfterFirst p).toNat := by
  rw [channelsAfterFirst_toNat]
  unfold sentChannels channelsPerColor
  cases p.order <;> rfl

theorem length_sentChannels (p : Params) (r g b w : Byte) :
    (sentChannels p r g b w).length = channelsPerColor p := by
  unfold sentChannels channelsPerColor
  cases p.order <;> rfl

/-- Settles O33: WRCOLOR starts the first channel of the color with the others behind it. -/
theorem wrcolorSendsItsColorWaveform : Obligations.WrcolorSendsItsColorWaveform := by
  intro r g b w s hs ha hr
  have hlength := length_sentChannels s.params r g b w
  refine ⟨?_, by rw [length_channelsWave hs.rules, hlength, colorCycles]⟩
  rw [colorCycles, ← hlength] at hr
  rw [sentChannels_eq_cons] at hr ⊢
  exact sendsWave_of_exec hs ha Instr.noConfusion hr (onAccept_of_canAccept ha.canAccept _)
    (bitStarts_of_channel _ _ _ _ _ _ s.clearPulse) rfl

end Sys2Proof.Machine
end

section
/-! PROOFS of the encoding family. A word decodes to a command exactly when it is the command's word in
the bits its row uses (R70 to R78); reserved codes (R77). The LED string shows a frame of whole colors as
sent (R84, R111, R118 to R120): the line of a frame is a list of pulses, which the string receives by
induction; then come the latch, and the pixels of the received bits. -/

namespace Sys2Proof.Machine

/-! ## The operand of each row (R72 to R74) -/

/-- SENDCH's operand: the low byte of `arg`. -/
theorem argField_and_byte (w : CmdWord) :
    argField w &&& 0x000000FF#32 = 0#24 ++ argByte w 0 := by
  have hlow : (0#24 ++ argByte w 0).toNat = (argByte w 0).toNat :=
    (BitVec.toNat_append 0#24 (argByte w 0)).trans (by simp)
  apply BitVec.eq_of_toNat_eq
  rw [hlow, argByte, BitVec.extractLsb'_toNat, Nat.shiftRight_zero, BitVec.toNat_and]
  exact Nat.and_two_pow_sub_one_eq_mod _ 8

theorem argBytes_append (w : CmdWord) :
    argByte w 24 ++ (argByte w 16 ++ (argByte w 8 ++ argByte w 0)) = argField w := by
  unfold argByte
  generalize argField w = a
  have two : a.extractLsb' 8 8 ++ a.extractLsb' 0 8 = a.extractLsb' 0 16 :=
    BitVec.extractLsb'_append_extractLsb'_eq_extractLsb' (start₁ := 0) (len₁ := 8) rfl
  have three : a.extractLsb' 16 8 ++ a.extractLsb' 0 16 = a.extractLsb' 0 24 :=
    BitVec.extractLsb'_append_extractLsb'_eq_extractLsb' (start₁ := 0) (len₁ := 16) rfl
  rw [two, three]
  exact BitVec.extractLsb'_append_extractLsb' (w := 8) (len := 24) (x := a)

theorem cntWidth_bits_le (cw : CntWidth) : cw.bits ≤ 32 := by cases cw <;> decide

theorem argCount_lt (cw : CntWidth) (w : CmdWord) : argCount cw w < 2 ^ cw.bits :=
  Nat.mod_lt _ (Nat.two_pow_pos _)

/-- CLEAR's operand: the low `CNT_W` bits of `arg`. -/
theorem argField_and_count (cw : CntWidth) (w : CmdWord) :
    argField w &&& BitVec.ofNat 32 (2 ^ cw.bits - 1) = BitVec.ofNat 32 (argCount cw w) := by
  have hfit : 2 ^ cw.bits ≤ 2 ^ 32 := Nat.pow_le_pow_right (by decide) (cntWidth_bits_le cw)
  have hcount := argCount_lt cw w
  apply BitVec.eq_of_toNat_eq
  rw [BitVec.toNat_and, BitVec.toNat_ofNat, BitVec.toNat_ofNat,
    Nat.mod_eq_of_lt (a := 2 ^ cw.bits - 1) (by omega), Nat.and_two_pow_sub_one_eq_mod,
    Nat.mod_eq_of_lt (a := argCount cw w) (by omega), argCount]

/-- Counts of `CNT_W` bits are told apart by the operand field. -/
theorem ofNat_inj_of_lt_count {cw : CntWidth} {m n : Nat} (hm : m < 2 ^ cw.bits)
    (hn : n < 2 ^ cw.bits) : BitVec.ofNat 32 m = BitVec.ofNat 32 n ↔ m = n := by
  have hfit : 2 ^ cw.bits ≤ 2 ^ 32 := Nat.pow_le_pow_right (by decide) (cntWidth_bits_le cw)
  rw [← BitVec.toNat_inj, BitVec.toNat_ofNat, BitVec.toNat_ofNat, Nat.mod_eq_of_lt (by omega),
    Nat.mod_eq_of_lt (by omega)]

/-! ## Words and commands (R70 to R78) -/

/-- A word that decodes carries the command's operation code. -/
theorem opField_of_decode {cw : CntWidth} {w : CmdWord} {i : Instr} (h : decode cw w = .ok i) :
    opField w = opCode i := by
  obtain ⟨hop, e⟩ | ⟨hop, e⟩ | ⟨hop, e⟩ | ⟨hop, e⟩ | ⟨hop, e⟩ | ⟨-, -, -, -, -, e⟩ :=
    decode_cases cw w
  case inr.inr.inr.inr.inr => rw [e] at h; cases h
  all_goals
    obtain rfl := Except.ok.inj (e.symm.trans h)
    exact hop

/-- Once the operation code is the row's, decoding is about the bits of `arg` that the row uses. -/
theorem decode_eq_ok_iff_operand {cw : CntWidth} {w : CmdWord} {i : Instr}
    (hi : wellFormed cw i = true) (hop : opField w = opCode i) :
    decode cw w = .ok i ↔ argField w &&& operandMask cw i = operandField i := by
  cases i with
  | sendch v =>
    rw [decode_sendch hop, operandMask, operandField, argField_and_byte, Except.ok.injEq,
      Instr.sendch.injEq]
    exact (BitVec.append_right_inj 0#24).symm
  | wrcolor r g b v =>
    rw [decode_wrcolor hop, Except.ok.injEq, Instr.wrcolor.injEq]
    change _ ↔ argField w &&& BitVec.allOnes 32 = r ++ (g ++ (b ++ v))
    rw [BitVec.and_allOnes]
    refine ⟨?_, argByte_of_bytes⟩
    rintro ⟨rfl, rfl, rfl, rfl⟩
    exact (argBytes_append w).symm
  | clear n =>
    have hn : n < 2 ^ cw.bits := of_decide_eq_true hi
    rw [decode_clear hop, operandMask, operandField, argField_and_count, Except.ok.injEq,
      Instr.clear.injEq]
    exact (ofNat_inj_of_lt_count (argCount_lt cw w) hn).symm
  | latch => simp [decode_latch hop, operandMask, operandField]
  | irpoll => simp [decode_irpoll hop, operandMask, operandField]

/-- A word decodes to a command exactly when it is the command's word in the bits its row uses. -/
theorem decode_eq_ok_iff {cw : CntWidth} {w : CmdWord} {i : Instr} :
    decode cw w = .ok i ↔ wellFormed cw i = true ∧ w &&& usedBits cw i = encode i := by
  rw [and_usedBits, encode, cmdWordOf_inj]
  constructor
  · intro h
    have hi := wellFormed_of_decode h
    have hop := opField_of_decode h
    exact ⟨hi, hop, (decode_eq_ok_iff_operand hi hop).mp h⟩
  · rintro ⟨hi, hop, harg⟩
    exact (decode_eq_ok_iff_operand hi hop).mpr harg

/-- The encoder sets no bit its row ignores. -/
theorem encode_and_usedBits {cw : CntWidth} {i : Instr} (hi : wellFormed cw i = true) :
    encode i &&& usedBits cw i = encode i :=
  match i with
  | .sendch v        => Laws.UsedBits.sendch v cw hi
  | .wrcolor r g b w => Laws.UsedBits.wrcolor r g b w cw hi
  | .clear n         => Laws.UsedBits.clear n cw hi
  | .latch           => Laws.UsedBits.latch cw hi
  | .irpoll          => Laws.UsedBits.irpoll cw hi

/-- Settles O1: the command's word is its own word in the bits its row uses. -/
theorem encodedCommandDecodesBack : Obligations.EncodedCommandDecodesBack := by
  intro cw i hi
  exact decode_eq_ok_iff.mpr ⟨hi, encode_and_usedBits hi⟩

/-- Settles O2, by what a word that decodes to a command is. -/
theorem decodedCommandReencodesToUsedBits : Obligations.DecodedCommandReencodesToUsedBits := by
  intro cw w i h
  obtain ⟨-, hused⟩ := decode_eq_ok_iff.mp h
  exact hused.symm

/-- Settles O3: decoding reads only the bits the row uses. -/
theorem ignoredBitsDoNotChangeDecoding : Obligations.IgnoredBitsDoNotChangeDecoding := by
  intro cw w w' i h hsame
  obtain ⟨hi, hused⟩ := decode_eq_ok_iff.mp h
  exact decode_eq_ok_iff.mpr ⟨hi, hsame.symm.trans hused⟩

/-- Settles O4, by the decoder's count. -/
theorem decodedCommandIsWellFormed : Obligations.DecodedCommandIsWellFormed :=
  fun _ _ _ h => wellFormed_of_decode h

/-! ## Reserved codes (R77) -/

/-- The codes of R77 are those that no row of the table has (R71). -/
theorem isReservedCode_iff (op : BitVec 4) :
    op.toNat = 0 ∨ op.toNat = 5 ∨ op.toNat = 6 ∨ op.toNat = 7 ∨ 9 ≤ op.toNat ↔
      op ∉ [0x1#4, 0x2#4, 0x3#4, 0x4#4, 0x8#4] := by
  revert op
  decide

/-- The decoder answers a command for the codes of the table, and for the rest the rejection that names
the code. -/
theorem decode_ok_or_reserved (cw : CntWidth) (w : CmdWord) :
    ((∃ i, decode cw w = .ok i) ∧ opField w ∈ [0x1#4, 0x2#4, 0x3#4, 0x4#4, 0x8#4]) ∨
      (decode cw w = .error (.reserved (opField w)) ∧
        opField w ∉ [0x1#4, 0x2#4, 0x3#4, 0x4#4, 0x8#4]) := by
  obtain ⟨hop, e⟩ | ⟨hop, e⟩ | ⟨hop, e⟩ | ⟨hop, e⟩ | ⟨hop, e⟩ | ⟨h1, h2, h3, h4, h8, e⟩ :=
    decode_cases cw w
  case inr.inr.inr.inr.inr => exact .inr ⟨e, by simp [h1, h2, h3, h4, h8]⟩
  all_goals exact .inl ⟨⟨_, e⟩, by simp [hop]⟩

/-- Settles O5, by whether the operation code is one of the table's. -/
theorem reservedCodesAreTheRest : Obligations.ReservedCodesAreTheRest := by
  intro cw w
  simp only [← opField_toNat, BitVec.ofNat_toNat, BitVec.setWidth_eq, isReservedCode_iff]
  obtain ⟨⟨i, e⟩, hop⟩ | ⟨e, hop⟩ := decode_ok_or_reserved cw w
  · exact ⟨iff_of_false (by simp [e]) (not_not_intro hop), by simp [e]⟩
  · exact ⟨iff_of_true e hop, fun r h => (Except.error.inj (e.symm.trans h)).symm⟩

/-- Settles O6: each word by the row of its operation code. -/
theorem tableWordsDecode : Obligations.TableWordsDecode :=
  ⟨rfl, rfl, rfl, rfl, rfl, rfl, rfl⟩

/-- Settles O9: the step of a reserved code is the end of a cycle with the response pulse cleared. -/
theorem reservedCommandIsANoOperation : Obligations.ReservedCommandIsANoOperation := by
  intro s r hp hfire hdecode
  obtain ⟨-, hphase, hist, -⟩ := fire_iff.mp hfire
  refine ⟨_, step_of_fire_reserved hp hfire hdecode, ?_, ?_, ?_, ?_⟩
  · simp [ptxRegs]
  · simp [irdRegs]
  · simp [rspRegs]
  · exact cmdReady_iff.mpr ⟨by simpa, by simpa⟩

/-! ## One cycle of the line, by the run it continues or ends -/

theorem observe_low_of_high {p : Params} {w : LedString} {n : Nat} (hw : w.line = .high n) :
    observe p w false = lowCycle p (some n) 1 (receiveHigh p n w) := by simp [observe, hw]

theorem observe_high_of_low {p : Params} {w : LedString} {a : Option Nat} {n : Nat}
    (hw : w.line = .low a n) : observe p w true = highCycle p 1 (closeBit p a n w) := by
  simp [observe, hw]

theorem observe_low_of_low {p : Params} {w : LedString} {a : Option Nat} {n : Nat}
    (hw : w.line = .low a n) : observe p w false = lowCycle p a (n + 1) w := by simp [observe, hw]

theorem observe_high_of_latched {p : Params} {w : LedString} (hw : w.line = .latched) :
    observe p w true = highCycle p 1 w := by simp [observe, hw]

theorem observe_low_of_latched {p : Params} {w : LedString} (hw : w.line = .latched) :
    observe p w false = w := by simp [observe, hw]

theorem lowCycle_of_latch {p : Params} {n : Nat} (hn : isLatch p n = true) (a : Option Nat)
    (w : LedString) : lowCycle p a n w = latchFrame p w := by simp [lowCycle, hn]

theorem lowCycle_of_no_latch {p : Params} {n : Nat} (hn : isLatch p n = false) (a : Option Nat)
    (w : LedString) : lowCycle p a n w = { w with line := .low a n } := by simp [lowCycle, hn]

/-! ## One bit on the line (R111, R118) -/

/-- The string after a bit `x.1` and its `x.2` LOW cycles: the bit is received, its bit cycle not yet
ended. -/
def afterPulse (p : Params) (x : Bool × Nat) (w : LedString) : LedString :=
  { w with line := .low (some (highCycles p x.1)) x.2, bits := w.bits ++ [x.1] }

/-- A bit and its LOW cycles are a bit cycle no shorter than `CYC` and within 9000 ns. -/
structure PulseFits (p : Params) (x : Bool × Nat) : Prop where
  whole  : p.cyc ≤ highCycles p x.1 + x.2
  inTime : 1000000000 * (highCycles p x.1 + x.2) ≤ 9000 * p.fClkHz

/-- A rising edge now begins a bit and violates no limit. -/
def startsBit (p : Params) (w : LedString) : Prop :=
  observe p w true = { w with line := .high 1 }

theorem highCycles_inBand {p : Params} (hp : meetsRules p) (b : Bool) :
    1000000000 * highCycles p b ≤ 8500 * p.fClkHz := by
  obtain ⟨-, ⟨-, h0hi, -, h1hi, -⟩, -⟩ := hp
  cases b with
  | false => exact h0hi.trans (Nat.mul_le_mul_right _ (by decide))
  | true => exact h1hi

/-- One HIGH cycle is not too long for a bit. -/
theorem highCycle_one {p : Params} (hp : meetsRules p) (w : LedString) :
    highCycle p 1 w = { w with line := .high 1 } := by
  have hle := highCycles_inBand hp false
  have hpos := (highCycles_lt hp false).1
  exact if_pos (by omega)

theorem startsBit_of_latched {p : Params} (hp : meetsRules p) {w : LedString}
    (hw : w.line = .latched) : startsBit p w :=
  (observe_high_of_latched hw).trans (highCycle_one hp w)

/-- The bit cycle that the rising edge ends is inside the limits of R118. -/
theorem startsBit_afterPulse {p : Params} (hp : meetsRules p) {x : Bool × Nat} (hx : PulseFits p x)
    (w : LedString) : startsBit p (afterPulse p x w) := by
  have hlimits : cycleInLimits p (highCycles p x.1 + x.2) = true := by
    obtain ⟨n, hn⟩ := Nat.exists_eq_add_of_le hx.whole
    rw [hn, cycleInLimits_cyc_add_iff hp, ← hn]
    exact hx.inTime
  have hclose : closeBit p (some (highCycles p x.1)) x.2 (afterPulse p x w) = afterPulse p x w :=
    if_pos hlimits
  rw [startsBit, observe_high_of_low rfl, hclose, highCycle_one hp]

/-- A LOW run within 9000 ns is no latch, the latch time being longer (R119). -/
theorem isLatch_of_inTime {p : Params} (hp : meetsRules p) (ht : 9000 < p.tLatchNs) {n : Nat}
    (hn : 1000000000 * n ≤ 9000 * p.fClkHz) : isLatch p n = false := by
  obtain ⟨⟨hclk, -⟩, -⟩ := hp
  exact isLatch_eq_false_iff.mpr (hn.trans_lt (Nat.mul_lt_mul_of_pos_right ht hclk))

theorem PulseFits.isLatch_eq_false {p : Params} (hp : meetsRules p) (ht : 9000 < p.tLatchNs)
    {x : Bool × Nat} (hx : PulseFits p x) : isLatch p x.2 = false := by
  have hin := hx.inTime
  exact isLatch_of_inTime hp ht (by omega)

/-- The HIGH phase of a bit. -/
theorem observeAll_highPhase {p : Params} (hp : meetsRules p) (b : Bool) {w : LedString}
    (hw : startsBit p w) :
    observeAll p w (List.replicate (highCycles p b) true) =
      { w with line := .high (highCycles p b) } := by
  have hband := highCycles_inBand hp b
  obtain ⟨h, hh⟩ := Nat.exists_eq_add_of_le (highCycles_lt hp b).1
  rw [hh] at hband ⊢
  rw [Nat.add_comm 1 h, List.replicate_succ, observeAll_cons, hw, Nat.add_comm h 1]
  exact observeAll_high p h rfl hband

/-- Its LOW cycles: the first of them ends the HIGH run, which is received as the bit. -/
theorem observeAll_lowPhase {p : Params} (hp : meetsRules p) (b : Bool) {low : Nat} (hlow : 1 ≤ low)
    (hlatch : isLatch p low = false) (w : LedString) :
    observeAll p { w with line := .high (highCycles p b) } (List.replicate low false) =
      afterPulse p (b, low) w := by
  obtain ⟨n, rfl⟩ := Nat.exists_eq_add_of_le hlow
  have hreceive : receiveHigh p (highCycles p b) { w with line := .high (highCycles p b) } =
      { w with line := .high (highCycles p b), bits := w.bits ++ [b] } := by
    rw [receiveHigh, receivedBit_highCycles hp]
  rw [Nat.add_comm, List.replicate_succ, observeAll_cons, observe_low_of_high rfl, hreceive,
    lowCycle_of_no_latch (isLatch_mono hlow hlatch), Nat.add_comm]
  exact observeAll_low p n rfl hlatch

/-- The string receives one bit of the block. -/
theorem observeAll_pulse {p : Params} (hp : meetsRules p) (ht : 9000 < p.tLatchNs)
    {x : Bool × Nat} (hx : PulseFits p x) {w : LedString} (hw : startsBit p w) :
    observeAll p w (pulse p x.1 x.2) = afterPulse p x w := by
  have hlow : 1 ≤ x.2 := by
    have hlt := (highCycles_lt hp x.1).2
    have hwhole := hx.whole
    omega
  rw [pulse, observeAll_append, observeAll_highPhase hp _ hw]
  exact observeAll_lowPhase hp _ hlow (hx.isLatch_eq_false hp ht) w

/-! ## The latch (R119) -/

theorem observeAll_low_of_latched (p : Params) (n : Nat) {w : LedString} (hw : w.line = .latched) :
    observeAll p w (List.replicate n false) = w := by
  induction n with
  | zero => rfl
  | succ n ih => rw [List.replicate_succ, observeAll_cons, observe_low_of_latched hw, ih]

/-- A LOW run that comes to the latch time latches the string, however long it goes on. -/
theorem observeAll_low_latch (p : Params) (n : Nat) {w : LedString} {a : Option Nat} {k : Nat}
    (hw : w.line = .low a k) (hk : isLatch p k = false) (hn : isLatch p (k + n) = true) :
    observeAll p w (List.replicate n false) = latchFrame p w := by
  induction n generalizing w k with
  | zero => simp [hk] at hn
  | succ n ih =>
    rw [List.replicate_succ, observeAll_cons, observe_low_of_low hw]
    cases hnow : isLatch p (k + 1) with
    | true =>
      rw [lowCycle_of_latch hnow]
      exact observeAll_low_of_latched p n rfl
    | false =>
      rw [lowCycle_of_no_latch hnow]
      exact ih rfl hnow (by rwa [Nat.add_right_comm])

/-- The LOW cycles of a LATCH, and any before them, latch the bits received. -/
theorem observeAll_afterPulse_latch {p : Params} (hp : meetsRules p) (ht : 9000 < p.tLatchNs)
    {x : Bool × Nat} (hx : PulseFits p x) (w : LedString) (rest : Nat) :
    observeAll p (afterPulse p x w) (List.replicate (rest + p.latchCyc) false) =
      latchFrame p (afterPulse p x w) := by
  have hfit := hx.isLatch_eq_false hp ht
  obtain ⟨-, ⟨-, -, -, -, -, -, -, -, hlatch⟩, -⟩ := hp
  exact observeAll_low_latch p _ rfl hfit (isLatch_iff.mpr (by omega))

/-- Bits on the line, each with its LOW cycles. -/
def pulseWave (p : Params) (xs : List (Bool × Nat)) : List Level :=
  xs.flatMap (fun x => pulse p x.1 x.2)

/-- The string receives the bits of the line one after another, then latches them. -/
theorem observeAll_pulses_latch {p : Params} (hp : meetsRules p) (ht : 9000 < p.tLatchNs)
    (rest : Nat) {xs : List (Bool × Nat)} (hne : xs ≠ []) (hxs : ∀ x ∈ xs, PulseFits p x)
    {w : LedString} (hw : startsBit p w) :
    observeAll p w (pulseWave p xs ++ List.replicate (rest + p.latchCyc) false) =
      latchFrame p { w with bits := w.bits ++ xs.map Prod.fst } := by
  induction xs generalizing w with
  | nil => exact absurd rfl hne
  | cons x xs ih =>
    obtain ⟨hx, htail⟩ := List.forall_mem_cons.mp hxs
    rw [pulseWave, List.flatMap_cons, List.append_assoc, observeAll_append,
      observeAll_pulse hp ht hx hw]
    by_cases hlast : xs = []
    · subst hlast
      exact observeAll_afterPulse_latch hp ht hx w rest
    · refine (ih hlast htail (startsBit_afterPulse hp hx w)).trans ?_
      simp [latchFrame, afterPulse]

/-! ## The pulses of a frame (R81 to R84) -/

/-- The bits of a channel with their LOW cycles: the last bit has the `GAP` and what follows it too. -/
def channelPulses (p : Params) (channel : Byte × Nat) : List (Bool × Nat) :=
  let v := channel.1
  [v[7], v[6], v[5], v[4], v[3], v[2], v[1]].map (fun b => (b, p.cyc - highCycles p b)) ++
    [(v[0], p.cyc - highCycles p v[0] + (p.gap + channel.2))]

theorem channelThenLow_eq_pulses (p : Params) (channel : Byte × Nat) :
    channelThenLow p channel = pulseWave p (channelPulses p channel) := by
  simp [pulseWave, channelThenLow, channelWave, channelPulses, lineBits, bitWave, pulse,
    Nat.add_assoc]

theorem map_fst_channelPulses (p : Params) (channel : Byte × Nat) :
    (channelPulses p channel).map Prod.fst = lineBits channel.1 := rfl

/-- A bit with up to the `GAP`, the idle cycle of the next fire and a latency of `L_MAX` behind it. -/
theorem pulseFits_of_latency {p : Params} (hp : meetsRules p) (b : Bool) {n : Nat}
    (hn : n ≤ p.gap + (1 + maxLatency p)) : PulseFits p (b, p.cyc - highCycles p b + n) := by
  have hlt := (highCycles_lt hp b).2
  have hmax := (le_maxLatency_iff hp (maxLatency p)).mp le_rfl
  constructor <;> dsimp only <;> omega

theorem pulseFits_channelPulses {p : Params} (hp : meetsRules p) {channel : Byte × Nat}
    (hc : channel.2 ≤ 1 + maxLatency p) : ∀ x ∈ channelPulses p channel, PulseFits p x := by
  intro x hx
  obtain hx | hx := List.mem_append.mp hx
  · obtain ⟨b, -, rfl⟩ := List.mem_map.mp hx
    exact pulseFits_of_latency hp b (Nat.zero_le _)
  · obtain rfl := List.mem_singleton.mp hx
    exact pulseFits_of_latency hp _ (Nat.add_le_add_left hc _)

/-! ## The pixels of the received bits (R52, R120) -/

theorem byteOfBits_lineBits (v : Byte) : byteOfBits (lineBits v) = v := by
  revert v
  decide

theorem channelsOfBits_flatMap_lineBits (vs : List Byte) :
    channelsOfBits (vs.flatMap lineBits) = vs := by
  induction vs with
  | nil => rfl
  | cons v vs ih => exact congrArg₂ List.cons (byteOfBits_lineBits v) ih

theorem length_flatMap_lineBits (vs : List Byte) :
    (vs.flatMap lineBits).length = 8 * vs.length := by
  simp [List.length_flatMap, lineBits, Nat.mul_comm]

theorem pixelsOfChannels_flatten {n : Nat} (hn : 0 < n) {colors : List (List Byte)}
    (hc : ∀ c ∈ colors, c.length = n) {fuel : Nat} (hfuel : colors.length ≤ fuel) :
    pixelsOfChannels n fuel colors.flatten = colors.map some := by
  induction colors generalizing fuel with
  | nil => cases fuel <;> rfl
  | cons c cs ih =>
    obtain ⟨hlen, hcs⟩ := List.forall_mem_cons.mp hc
    obtain ⟨m, rfl⟩ := Nat.exists_eq_add_of_le' (Nat.one_le_of_lt hfuel)
    have hne : c ++ cs.flatten ≠ [] :=
      List.append_ne_nil_of_left_ne_nil (List.ne_nil_of_length_pos (hn.trans_eq hlen.symm)) _
    rw [List.flatten_cons, pixelsOfChannels, if_neg hne, if_neg (by simp [hlen]), ← hlen,
      List.take_left, List.drop_left, hlen, ih hcs (Nat.le_of_succ_le_succ hfuel), List.map_cons]

theorem channelsPerColor_pos (p : Params) : 0 < channelsPerColor p := by
  unfold channelsPerColor
  split <;> decide

/-- Whole colors, bit by bit, are the pixels' colors. -/
theorem pixelsOfBits_colors {p : Params} {colors : List (List Byte)}
    (hc : ∀ c ∈ colors, c.length = channelsPerColor p) :
    pixelsOfBits p (colors.flatten.flatMap lineBits) = colors.map some := by
  have hpos := channelsPerColor_pos p
  have hfuel : colors.length ≤ colors.flatten.length := by
    have hone : ∀ k ∈ colors.map List.length, 1 ≤ k :=
      List.forall_mem_map.mpr fun c h => hpos.trans_eq (hc c h).symm
    simpa [List.length_flatten] using List.length_le_sum_of_one_le _ hone
  rw [pixelsOfBits, channelsOfBits_flatMap_lineBits, length_flatMap_lineBits,
    pixelsOfChannels_flatten hpos hc hfuel]
  exact if_pos (Nat.mul_mod_right 8 _)

/-! ## A frame -/

/-- The bits of a frame with their LOW cycles. -/
def framePulses (p : Params) (colors : List (List (Byte × Nat))) : List (Bool × Nat) :=
  colors.flatten.flatMap (channelPulses p)

theorem frameWave_eq_pulses (p : Params) (colors : List (List (Byte × Nat))) (rest : Nat) :
    frameWave p colors rest =
      pulseWave p (framePulses p colors) ++ List.replicate (rest + p.latchCyc) false := by
  rw [frameWave, framePulses, pulseWave, List.flatMap_assoc, funext (channelThenLow_eq_pulses p)]
  rfl

theorem map_fst_framePulses (p : Params) (colors : List (List (Byte × Nat))) :
    (framePulses p colors).map Prod.fst =
      (colors.map (List.map Prod.fst)).flatten.flatMap lineBits := by
  simp only [framePulses, List.map_flatMap, map_fst_channelPulses, ← List.map_flatten,
    List.flatMap_map]

theorem framePulses_ne_nil {p : Params} {colors : List (List (Byte × Nat))} (hne : colors ≠ [])
    (hc : ∀ c ∈ colors, c.length = channelsPerColor p) : framePulses p colors ≠ [] := by
  obtain ⟨c, cs, rfl⟩ := List.exists_cons_of_ne_nil hne
  have hpos := channelsPerColor_pos p
  rw [← hc c List.mem_cons_self] at hpos
  obtain ⟨channel, channels, rfl⟩ := List.exists_cons_of_length_pos hpos
  simp [framePulses, channelPulses]

/-- Latching the bits of a frame that is not corrupt. -/
theorem latchFrame_frameStart (p : Params) (before : List (Option (List Byte))) (bits : List Bool) :
    latchFrame p { frameStart before with bits := bits } = frameStart (pixelsOfBits p bits) := rfl

theorem display_frameStart (p : Params) (shown : List (Option (List Byte))) :
    (frameStart shown).display p = shown := rfl

/-- Settles O37: the frame is a list of pulses, which the string receives bit by bit and latches. -/
theorem stringShowsTheFrameAsSent : Obligations.StringShowsTheFrameAsSent := by
  intro p colors rest before hp ht hne hcolors
  have hwhole : ∀ c ∈ colors, c.length = channelsPerColor p := fun c hc => (hcolors c hc).1
  have hfits : ∀ x ∈ framePulses p colors, PulseFits p x := by
    intro x hx
    obtain ⟨channel, hchannel, hx⟩ := List.mem_flatMap.mp hx
    obtain ⟨c, hc, hmem⟩ := List.mem_flatten.mp hchannel
    exact pulseFits_channelPulses hp ((hcolors c hc).2 channel hmem) x hx
  have hpixels : pixelsOfBits p ((framePulses p colors).map Prod.fst) =
      colors.map (fun c => some (c.map Prod.fst)) := by
    rw [map_fst_framePulses, pixelsOfBits_colors (by simpa using hwhole), List.map_map]
    rfl
  have hshown : observeAll p (frameStart before) (frameWave p colors rest) =
      frameStart (colors.map (fun c => some (c.map Prod.fst))) := by
    rw [frameWave_eq_pulses, observeAll_pulses_latch hp ht rest (framePulses_ne_nil hne hwhole)
      hfits (startsBit_of_latched hp rfl), ← hpixels]
    exact latchFrame_frameStart p before _
  exact ⟨hshown, by rw [hshown, display_frameStart]⟩

end Sys2Proof.Machine
end

section
/-! PROOFS of the pixel transmitter family. What each command writes (R101 to R104, R108) and leaves
alone (R100, R140); one step of a busy PTX (R105 to R107); the waveforms of CLEAR and LATCH (R104, R108,
R110), CLEAR by induction over its colors; what marks the string's frame corrupt (R118, R121, R213,
R218). -/

namespace Sys2Proof.Machine

/-! ## What a command writes in the cycle it fires (R101 to R104, R108) -/

/-- `NCH - 1` by the order (R6, R29). -/
theorem channelsAfterFirst_eq (p : Params) :
    channelsAfterFirst p = if p.order = .rgbw then 3#2 else 2#2 := by
  unfold channelsAfterFirst channelsPerColor
  cases p.order <;> rfl

/-- A zero color starts, register by register (R101, R104). -/
theorem startZeroColor_eq (k : Nat) (s : State) :
    startZeroColor k s =
      { s with
        sr := 0x00#8, nbits := 8#4, phase := .high, dout := true, cnt := s.params.h0,
        chbuf0 := 0x00#8, chbuf1 := 0x00#8, chbuf2 := 0x00#8,
        nch := if s.params.order = .rgbw then 3#2 else 2#2, ncol := k } := by
  rw [← channelsAfterFirst_eq]
  rfl

/-- An accepted WRCOLOR, for the channels `c` of its color in line order. -/
theorem exec_wrcolor_of_canAccept {r g b w : Byte} {s : State} {c : Channels}
    (hs : s.canAccept = true) (hc : lineOrder s.params.order r g b w = c) :
    exec (.wrcolor r g b w) s =
      .next (setColorsLeft 0
        (bufferChannels c.c1 c.c2 c.c3 (channelsAfterFirst s.params) (startChannel c.c0 s))) := by
  subst hc
  exact onAccept_of_canAccept hs _

/-- An accepted CLEAR of at least one color. -/
theorem exec_clear_succ_of_canAccept {k : Nat} {s : State} (hs : s.canAccept = true) :
    exec (.clear (k + 1)) s = .next (startZeroColor k s) :=
  onAccept_of_canAccept hs _

/-- CLEAR 0 writes nothing, accepted or not. -/
theorem exec_clear_zero (s : State) : exec (.clear 0) s = .next s := by
  simp [exec, execClear, onAccept]

/-- Settles O23: START_CH and nothing buffered. -/
theorem sendchStartsItsChannel : Obligations.SendchStartsItsChannel :=
  fun _ _ hs => onAccept_of_canAccept hs _

/-- Settles O24: START_CH for the first channel of each order, the others buffered. -/
theorem wrcolorStartsItsColor : Obligations.WrcolorStartsItsColor := by
  intro r g b w s hs
  refine ⟨fun ho => ?_, fun ho => ?_, fun ho => ?_⟩ <;>
    · rw [exec_wrcolor_of_canAccept hs rfl, channelsAfterFirst_eq, ho]
      rfl

/-- Settles O25, by whether the count is 0. -/
theorem clearStartsItsZeroColors : Obligations.ClearStartsItsZeroColors := by
  intro n s hs
  cases n with
  | zero => exact ⟨fun h => absurd rfl h, fun _ => exec_clear_zero s⟩
  | succ k =>
    exact ⟨fun _ => (exec_clear_succ_of_canAccept hs).trans (congrArg _ (startZeroColor_eq k s)),
      fun h => absurd h k.succ_ne_zero⟩

/-- Settles O26: an accepted LATCH. -/
theorem latchEntersItsWait : Obligations.LatchEntersItsWait :=
  fun _ hs => onAccept_of_canAccept hs _

/-! ## What a command leaves alone (R100, R140) -/

/-- SENDCH buffers nothing (R102). -/
theorem exec_sendch_chbuf {v : Byte} {s t : State} (h : exec (.sendch v) s = .next t) :
    t.chbuf0 = s.chbuf0 ∧ t.chbuf1 = s.chbuf1 ∧ t.chbuf2 = s.chbuf2 :=
  onAccept_induct (P := fun u => u.chbuf0 = s.chbuf0 ∧ u.chbuf1 = s.chbuf1 ∧ u.chbuf2 = s.chbuf2) h
    ⟨rfl, rfl, rfl⟩ ⟨rfl, rfl, rfl⟩

/-- LATCH writes two PTX registers (R108). -/
theorem exec_latch_ptxRegs {s t : State} (h : exec .latch s = .next t) :
    ptxRegs t = { ptxRegs s with phase := t.phase, cnt := t.cnt } :=
  onAccept_induct (P := fun u => ptxRegs u = { ptxRegs s with phase := u.phase, cnt := u.cnt }) h
    rfl rfl

/-- Settles O22, one register group at a time. -/
theorem commandsTouchOnlyTheirUnit : Obligations.CommandsTouchOnlyTheirUnit := by
  intro i s t h
  refine ⟨exec_sameSurroundings h, fun hi => exec_irdRegs_rspRegs hi h, ?_, ?_, ?_⟩
  · rintro rfl
    exact exec_irpoll_ptxRegs h
  · rintro v rfl
    exact exec_sendch_chbuf h
  · rintro rfl
    exact exec_latch_ptxRegs h

/-! ## The units in one step (R100, R140) -/

/-- The end of a channel does not read the response registers. -/
theorem endChannel_clearPulse (s : State) :
    endChannel s.clearPulse = (endChannel s).clearPulse := by
  simp only [endChannel, apply_ite State.clearPulse]
  rfl

/-- PTX does not read the response registers. -/
theorem ptxStep_clearPulse (s : State) : ptxStep s.clearPulse = (ptxStep s).clearPulse := by
  cases hph : s.phase with
  | idle => rw [ptxStep_of_idle hph, ptxStep_of_idle (s := s.clearPulse) hph]
  | high =>
    rw [ptxStep_of_high hph, ptxStep_of_high (s := s.clearPulse) hph]
    simp only [highStep, apply_ite State.clearPulse]
    rfl
  | low =>
    rw [ptxStep_of_low hph, ptxStep_of_low (s := s.clearPulse) hph]
    simp only [lowStep, apply_ite State.clearPulse, endChannel_clearPulse]
    rfl
  | latch =>
    rw [ptxStep_of_latch hph, ptxStep_of_latch (s := s.clearPulse) hph]
    simp only [latchStep, apply_ite State.clearPulse]
    rfl

/-- In a cycle without a command the PTX registers take the PTX step. -/
@[simp] theorem ptxRegs_unitsStep_clearPulse (s : State) :
    ptxRegs (unitsStep s.clearPulse) = ptxRegs (ptxStep s) := by
  simp [unitsStep, ptxStep_clearPulse]

/-- While IRD is idle a cycle without a command leaves its registers and only clears the pulse. -/
theorem unitsStep_clearPulse_of_ist_idle {s : State} (hi : s.ist = .idle) :
    irdRegs (unitsStep s.clearPulse) = irdRegs s ∧
      rspRegs (unitsStep s.clearPulse) = { rspRegs s with rspValid := false } := by
  have hist : (ptxStep s.clearPulse).ist = .idle := (ptxStep_ist _).trans hi
  simp [unitsStep, irdStep_of_idle hist]

/-- A step that accepts no transmitting command and no LATCH leaves an idle PTX alone. -/
theorem step_ptxRegs_of_idle {s t : State} (hr : s.pins.rst = false) (hph : s.phase = .idle)
    (honly : ∀ i, accepts i s → i = .irpoll) (h : step s = .next t) : ptxRegs t = ptxRegs s := by
  obtain ⟨-, ⟨hrst, -⟩ | ⟨-, hf, i, u, hd, he, rfl⟩ | ⟨-, -, -, rfl⟩ | ⟨-, -, rfl⟩⟩ := step_cases h
  · simp [hr] at hrst
  · obtain rfl := honly i ⟨hf, hd⟩
    simpa using exec_irpoll_ptxRegs he
  · simp
  · simp [hph]

/-- A step that accepts no poll leaves an idle IRD alone and gives no response. -/
theorem step_irdRegs_rspRegs_of_idle {s t : State} (hr : s.pins.rst = false) (hi : s.ist = .idle)
    (hnone : ¬ accepts .irpoll s) (h : step s = .next t) :
    irdRegs t = irdRegs s ∧ rspRegs t = { rspRegs s with rspValid := false } := by
  obtain ⟨-, ⟨hrst, -⟩ | ⟨-, hf, i, u, hd, he, rfl⟩ | ⟨-, -, -, rfl⟩ | ⟨-, -, rfl⟩⟩ := step_cases h
  · simp [hr] at hrst
  · have hne : i ≠ .irpoll := by
      rintro rfl
      exact hnone ⟨hf, hd⟩
    simpa using exec_irdRegs_rspRegs hne he
  · simp
  · simpa using unitsStep_clearPulse_of_ist_idle hi

/-- Settles O21, by what a step can do to an idle unit. -/
theorem idleUnitsStayUntilTheirCommand : Obligations.IdleUnitsStayUntilTheirCommand := by
  intro s hp hr
  obtain ⟨t, ht⟩ := step_next hp
  exact ⟨fun hph honly => ⟨t, ht, step_ptxRegs_of_idle hr hph honly ht⟩,
    fun hi hnone => ⟨t, ht, step_irdRegs_rspRegs_of_idle hr hi hnone ht⟩⟩

/-! ## One step of a busy PTX (R105 to R107) -/

/-- The registers of a busy PTX take the PTX step, whatever IRD does. -/
theorem step_ptxRegs_of_busy {s : State} {r : PtxRegs} (hp : meetsRules s.params)
    (hr : s.pins.rst = false) (hb : s.phase ≠ .idle) (h : ptxRegs (ptxStep s) = r) :
    ∃ t, step s = .next t ∧ ptxRegs t = r :=
  ⟨_, step_of_no_fire hp hr (fire_of_phase hb), by simpa using h⟩

/-- Settles O29: `P_HIGH` in one step. -/
theorem highPhaseCountsThenFalls : Obligations.HighPhaseCountsThenFalls := by
  intro s hp hr hph
  refine step_ptxRegs_of_busy hp hr (by simp [hph]) ?_
  rw [ptxStep_of_high hph, highStep, apply_ite ptxRegs]
  rfl

/-- Settles O30: `P_LOW` inside a channel. -/
theorem lowPhaseCountsThenNextBit : Obligations.LowPhaseCountsThenNextBit := by
  intro s hp hr hph
  have hbusy : s.phase ≠ .idle := by simp [hph]
  refine ⟨fun hcnt => ?_, fun hcnt hbits => ?_⟩ <;> refine step_ptxRegs_of_busy hp hr hbusy ?_
  · rw [ptxStep_of_low hph, lowStep, if_pos hcnt]
    rfl
  · rw [ptxStep_of_low hph, lowStep, if_neg hcnt.not_gt, if_pos hbits]
    rfl

/-- The last cycle of a channel (R106). -/
theorem ptxStep_of_channel_end {s : State} (hph : s.phase = .low) (hcnt : s.cnt ≤ 1)
    (hbits : s.nbits = 1#4) : ptxStep s = endChannel s := by
  rw [ptxStep_of_low hph, lowStep, if_neg hcnt.not_gt, if_neg (by simp [hbits])]

/-- The end of a channel (R107) with another one waiting. -/
theorem endChannel_of_channel_waiting {s : State} (hch : s.nch ≠ 0#2) :
    endChannel s =
      bufferChannels s.chbuf1 s.chbuf2 0x00#8 (s.nch - 1#2) (startChannel s.chbuf0 s) :=
  if_pos (Nat.pos_of_ne_zero fun h => hch (BitVec.eq_of_toNat_eq h))

/-- The end of a color with a zero color left. -/
theorem endChannel_of_color_left {s : State} (hch : s.nch = 0#2) (hcol : s.ncol ≠ 0) :
    endChannel s = startZeroColor (s.ncol - 1) s := by
  rw [endChannel, if_neg (by simp [hch]), if_pos (Nat.pos_of_ne_zero hcol)]

/-- The end of a command. -/
theorem endChannel_of_none_left {s : State} (hch : s.nch = 0#2) (hcol : s.ncol = 0) :
    endChannel s = { s with phase := .idle, nbits := 0#4 } := by
  rw [endChannel, if_neg (by simp [hch]), if_neg (by simp [hcol])]

/-- Settles O31, by what is left to send. -/
theorem channelEndGoesOnOrCompletes : Obligations.ChannelEndGoesOnOrCompletes := by
  intro s hp hr hph hcnt hbits
  have atEnd {u : State} (hu : endChannel s = u) : ∃ t, step s = .next t ∧ ptxRegs t = ptxRegs u :=
    step_ptxRegs_of_busy hp hr (by simp [hph])
      (congrArg ptxRegs ((ptxStep_of_channel_end hph hcnt hbits).trans hu))
  refine ⟨fun hch => ?_, fun hch hcol => ?_, fun hch hcol => ?_⟩
  · exact atEnd (endChannel_of_channel_waiting hch)
  · exact atEnd ((endChannel_of_color_left hch hcol).trans (startZeroColor_eq _ s))
  · exact atEnd (endChannel_of_none_left hch hcol)

/-! ## The waveform of CLEAR (R104, R110) -/

/-- A step after which the line has the levels `w`, ending in an idle block with the line LOW. -/
theorem sendsWave_of_sends {w : List Level} {s u t : State} (hu : step s = .next u)
    (hw : Sends w u t) (hphase : t.phase = .idle) (hist : t.ist = .idle) (hdout : t.dout = false) :
    sendsWave s w := by
  obtain ⟨hdouts, hreadies, hrun⟩ := hw.trace_eq
  exact ⟨u, hu, hdouts, hreadies, t, hrun, cmdReady_iff.mpr ⟨hphase, hist⟩, hdout⟩

/-- The first cycle of a zero color with `m` to follow: the first of its channels starts, and the other
ones wait. -/
structure ZeroColorStarts (p : Params) (m : Nat) (r : PtxRegs) : Prop where
  bit   : BitStarts p 8 0x00#8 r
  queue : r.queue = (List.replicate (channelsPerColor p - 1) 0x00#8, m)

theorem zeroColorStarts_startZeroColor (m : Nat) (s : State) :
    ZeroColorStarts s.params m (ptxRegs (startZeroColor m s)) := by
  refine ⟨bitStarts_of_channel _ _ _ _ _ _ s, queue_ptxRegs_eq_iff.mpr ⟨?_, rfl⟩⟩
  change (List.replicate 3 0x00#8).take (channelsAfterFirst s.params).toNat = _
  have hfit : (channelsAfterFirst s.params).toNat ≤ 3 := by omega
  rw [List.take_replicate, min_eq_left hfit, channelsAfterFirst_toNat]

/-- After a color the next zero color starts (R107). -/
theorem AfterChannel.nextZeroColor {p : Params} {m : Nat} {t : State}
    (h : AfterChannel p ([], m + 1) t) : ZeroColorStarts p m (ptxRegs t) := by
  obtain ⟨u, ht, rfl, -, hq⟩ := h
  obtain ⟨hwait, hcol⟩ := queue_ptxRegs_eq_iff.mp hq
  have hch : u.nch = 0#2 := BitVec.eq_of_toNat_eq (by simpa using hwait)
  rw [ht, endChannel_of_color_left hch (by simp [hcol]), hcol]
  exact zeroColorStarts_startZeroColor m u

/-- The line of `n` zero colors. -/
def zeroColorsWave (p : Params) (n : Nat) : List Level :=
  channelsWave p (List.replicate (n * channelsPerColor p) 0x00#8)

@[simp] theorem zeroColorsWave_zero (p : Params) : zeroColorsWave p 0 = [] := by
  simp [zeroColorsWave, channelsWave]

theorem zeroColorsWave_succ (p : Params) (n : Nat) :
    zeroColorsWave p (n + 1) =
      channelsWave p (0x00#8 :: List.replicate (channelsPerColor p - 1) 0x00#8) ++
        zeroColorsWave p n := by
  have hfirst : 0x00#8 :: List.replicate (channelsPerColor p - 1) 0x00#8 =
      List.replicate (channelsPerColor p) 0x00#8 := by
    rw [← List.replicate_succ, Nat.sub_add_cancel (channelsPerColor_pos p)]
  rw [zeroColorsWave, zeroColorsWave, hfirst, Nat.succ_mul, Nat.add_comm, List.replicate_add,
    channelsWave, List.flatMap_append]
  rfl

/-- One zero color. -/
theorem zeroColorRun {p : Params} (hp : meetsRules p) (n : Nat) {m : Nat} {s : State}
    (hs : ZeroColorStarts p m (ptxRegs s)) (hc : PtxAlone (colorCycles p + n) p s) :
    ∃ t, Sends (channelsWave p (0x00#8 :: List.replicate (channelsPerColor p - 1) 0x00#8)) s t ∧
      AfterChannel p ([], m) t ∧ PtxAlone n p t := by
  refine channelsRun hp n hs.bit hs.queue ?_
  rwa [List.length_cons, List.length_replicate, Nat.sub_add_cancel (channelsPerColor_pos p)]

/-- A zero color and the `m` that follow it, by induction over those. -/
theorem zeroColorsRun {p : Params} (hp : meetsRules p) (n m : Nat) {s : State}
    (hs : ZeroColorStarts p m (ptxRegs s)) (hc : PtxAlone ((m + 1) * colorCycles p + n) p s) :
    ∃ t, Sends (zeroColorsWave p (m + 1)) s t ∧ AfterChannel p ([], 0) t ∧ PtxAlone n p t := by
  induction m generalizing s with
  | zero =>
    obtain ⟨t, hsend, hafter, hct⟩ := zeroColorRun hp n hs (by simpa using hc)
    rw [zeroColorsWave_succ, zeroColorsWave_zero, List.append_nil]
    exact ⟨t, hsend, hafter, hct⟩
  | succ m ih =>
    have hcycles : colorCycles p + ((m + 1) * colorCycles p + n) =
        (m + 1 + 1) * colorCycles p + n := by rw [Nat.succ_mul (m + 1)]; omega
    obtain ⟨t, hfirst, hafter, hct⟩ := zeroColorRun hp _ hs (by rwa [hcycles])
    obtain ⟨u, hrest, hend, hcu⟩ := ih hafter.nextZeroColor hct
    rw [zeroColorsWave_succ]
    exact ⟨u, hfirst.append hrest, hend, hcu⟩

theorem length_zeroColorsWave {p : Params} (hp : meetsRules p) (n : Nat) :
    (zeroColorsWave p n).length = n * colorCycles p := by
  rw [zeroColorsWave, length_channelsWave hp, List.length_replicate, Nat.mul_assoc, colorCycles]

/-- CLEAR 0 puts nothing on the line: the block is ready in the next cycle, as before. -/
theorem sendsWave_of_clear_zero {s : State} (hs : BlockInv s) (ha : accepts (.clear 0) s) :
    sendsWave s (zeroColorsWave s.params 0) := by
  obtain ⟨-, hphase, hist, -⟩ := fire_iff.mp ha.1
  rw [zeroColorsWave_zero]
  exact sendsWave_of_sends (t := endCycle s.clearPulse)
    (step_of_fire_next hs.rules ha.1 ha.2 (exec_clear_zero _)) rfl (by simpa) (by simpa)
    (by simpa using hs.dout_low (by simp [hphase]))

/-- CLEAR of more puts its zero colors on the line. -/
theorem sendsWave_of_clear_succ {m : Nat} {s : State} (hs : BlockInv s)
    (ha : accepts (.clear (m + 1)) s)
    (hr : resetFree ((m + 1) * colorCycles s.params + 1) s = true) :
    sendsWave s (zeroColorsWave s.params (m + 1)) := by
  have he := exec_clear_succ_of_canAccept (k := m) ha.canAccept
  obtain ⟨t, hsend, hafter, hct⟩ := zeroColorsRun hs.rules 0 m
    (by simpa using zeroColorStarts_startZeroColor m s.clearPulse)
    (ptxAlone_endCycle_exec ha Instr.noConfusion hr he)
  obtain ⟨hphase, hdout⟩ := hafter.complete
  exact sendsWave_of_sends (step_of_fire_next hs.rules ha.1 ha.2 he) hsend hphase hct.ist hdout

/-- Settles O34, by whether the count is 0. -/
theorem clearSendsItsZeroColors : Obligations.ClearSendsItsZeroColors := by
  intro n s hs ha hr
  refine ⟨?_, length_zeroColorsWave hs.rules n⟩
  cases n with
  | zero => exact sendsWave_of_clear_zero hs ha
  | succ m => exact sendsWave_of_clear_succ hs ha (by rwa [Nat.add_comm])

/-! ## The waveform of LATCH (R108, R110) -/

/-- Settles O35: LATCH loads `LATCH_CYC`, at least 1, and its wait counts it down. -/
theorem latchHoldsTheLineLow : Obligations.LatchHoldsTheLineLow := by
  intro s hs ha hr
  obtain ⟨-, hphase, -, -⟩ := fire_iff.mp ha.1
  obtain ⟨⟨-, -, -, -, hpos, -⟩, -⟩ := hs.rules
  obtain ⟨c, hc⟩ : ∃ c, s.params.latchCyc = c + 1 := Nat.exists_eq_add_one.mpr hpos
  rw [Nat.add_comm, hc] at hr
  have he := latchEntersItsWait s.clearPulse ha.canAccept
  have hdout := hs.dout_low (by simp [hphase])
  obtain ⟨t, hsend, hidle, hlow, hct⟩ := latchRun hs.rules c 0 (by simp) (by simpa using hc)
    (by simpa using hdout) (ptxAlone_endCycle_exec ha Instr.noConfusion hr he)
  rw [hc]
  exact sendsWave_of_sends (step_of_fire_next hs.rules ha.1 ha.2 he) hsend hidle hct.ist hlow

/-! ## What marks the frame corrupt (R118, R119, R121, R218) -/

/-- After bits within the limits the string is ready for the next one. -/
theorem startsBit_observeAll_pulses {p : Params} (hp : meetsRules p) (ht : 9000 < p.tLatchNs)
    {xs : List (Bool × Nat)} (hxs : ∀ x ∈ xs, PulseFits p x) {w : LedString} (hw : startsBit p w) :
    startsBit p (observeAll p w (pulseWave p xs)) := by
  induction xs generalizing w with
  | nil => exact hw
  | cons x xs ih =>
    obtain ⟨hx, htail⟩ := List.forall_mem_cons.mp hxs
    rw [pulseWave, List.flatMap_cons, observeAll_append, observeAll_pulse hp ht hx hw]
    exact ih htail (startsBit_afterPulse hp hx w)

/-- A HIGH cycle takes no mark away. -/
theorem highCycle_corrupt {p : Params} {n : Nat} {w : LedString} (hw : w.corrupt = true) :
    (highCycle p n w).corrupt = true := by
  obtain h | h := highCycle_cases p n w <;> rw [h]
  · exact hw
  · rfl

/-- A rising edge that ends a bit cycle outside the limits marks the frame (R121, U2). -/
theorem observe_high_corrupt_of_limits {p : Params} {w : LedString} {high low : Nat}
    (hw : w.line = .low (some high) low) (hlimits : cycleInLimits p (high + low) = false) :
    (observe p w true).corrupt = true := by
  have hclose : closeBit p (some high) low w = markCorrupt w := if_neg (by simp [hlimits])
  rw [observe_high_of_low hw, hclose]
  exact highCycle_corrupt rfl

/-- A bit whose LOW cycles go on past the limits and then end by a rising edge marks the frame. -/
theorem observe_pulse_high_corrupt {p : Params} (hp : meetsRules p) {b : Bool} {low : Nat}
    {w : LedString} (hw : startsBit p w) (hlow : 1 ≤ low) (hlatch : isLatch p low = false)
    (hlimits : cycleInLimits p (highCycles p b + low) = false) :
    (observeAll p w (pulse p b low ++ [true])).corrupt = true := by
  rw [observeAll_append, pulse, observeAll_append, observeAll_highPhase hp b hw,
    observeAll_lowPhase hp b hlow hlatch w]
  exact observe_high_corrupt_of_limits (w := afterPulse p (b, low) w) rfl hlimits

/-- The bits of channels back to back but for the very last bit. -/
def pulsesBeforeLast (p : Params) (vs : List Byte) (v : Byte) : List (Bool × Nat) :=
  vs.flatMap (fun u => channelPulses p (u, 0)) ++ (channelPulses p (v, 0)).dropLast

theorem pulseFits_pulsesBeforeLast {p : Params} (hp : meetsRules p) (vs : List Byte) (v : Byte) :
    ∀ x ∈ pulsesBeforeLast p vs v, PulseFits p x := by
  intro x hx
  obtain hx | hx := List.mem_append.mp hx
  · obtain ⟨u, -, hx⟩ := List.mem_flatMap.mp hx
    exact pulseFits_channelPulses hp (Nat.zero_le _) x hx
  · exact pulseFits_channelPulses hp (Nat.zero_le _) x (List.mem_of_mem_dropLast hx)

/-- Channels and the LOW cycles after them: the last bit has these, the `GAP` and its own. -/
theorem channelsWave_append_low (p : Params) (vs : List Byte) (v : Byte) (low : Nat) :
    channelsWave p (vs ++ [v]) ++ List.replicate low false =
      pulseWave p (pulsesBeforeLast p vs v) ++
        pulse p v[0] (p.cyc - highCycles p v[0] + (p.gap + low)) := by
  have hchannel (u : Byte) : channelWave p u = pulseWave p (channelPulses p (u, 0)) := by
    simpa [channelThenLow] using channelThenLow_eq_pulses p (u, 0)
  have hlast : channelWave p v ++ List.replicate low false =
      pulseWave p ((channelPulses p (v, 0)).dropLast) ++
        pulse p v[0] (p.cyc - highCycles p v[0] + (p.gap + low)) := by
    refine (channelThenLow_eq_pulses p (v, low)).trans ?_
    simp [pulseWave, channelPulses]
  rw [channelsWave, List.flatMap_append, List.flatMap_singleton, List.append_assoc, hlast,
    funext hchannel]
  simp [pulseWave, pulsesBeforeLast, List.flatMap_assoc]

/-- A latency above `L_MAX`, short of the latch time, marks the frame (R111, R218). -/
theorem corrupt_of_late_channel {p : Params} (hp : meetsRules p) (ht : 9000 < p.tLatchNs)
    (vs : List Byte) (v : Byte) {latency : Nat} (hlate : maxLatency p < latency)
    (hlatch : isLatch p (p.cyc - highCycles p v[0] + p.gap + 1 + latency) = false)
    {w : LedString} (hw : startsBit p w) :
    (observeAll p w
      (channelsWave p (vs ++ [v]) ++ List.replicate (1 + latency) false ++ [true])).corrupt =
      true := by
  obtain ⟨hpos, hlt⟩ := highCycles_lt hp v[0]
  have hlimits : cycleInLimits p (p.cyc + p.gap + 1 + latency) = false := by
    obtain ⟨-, -, -, hmax⟩ := everyBitIsInsideTheLineLimits p hp
    exact Bool.eq_false_iff.mpr (mt (hmax latency).mp hlate.not_ge)
  rw [channelsWave_append_low, List.append_assoc, observeAll_append]
  refine observe_pulse_high_corrupt hp
    (startsBit_observeAll_pulses hp ht (pulseFits_pulsesBeforeLast hp vs v) hw) (by omega) ?_ ?_
  · rwa [← Nat.add_assoc, ← Nat.add_assoc]
  · rwa [show highCycles p v[0] + (p.cyc - highCycles p v[0] + (p.gap + (1 + latency))) =
      p.cyc + p.gap + 1 + latency by omega]

/-- What a marked frame is after one LOW cycle: still marked, or latched with nothing shown. -/
theorem lowCycle_of_corrupt {p : Params} {w : LedString} (a : Option Nat) (n : Nat)
    (hw : w.corrupt = true) (hshown : w.shown = []) :
    ((lowCycle p a n w).corrupt = true ∨ (lowCycle p a n w).line = .latched) ∧
      (lowCycle p a n w).shown = [] := by
  obtain h | h := lowCycle_cases p a n w <;> rw [h]
  · exact ⟨.inl hw, hshown⟩
  · exact ⟨.inr rfl, latchFrame_shown_of_corrupt hw⟩

/-- Settles O38: the late edge ends the last bit's cycle outside the limits, and the end of a HIGH run
that is no bit's marks the frame before its first LOW cycle. -/
theorem lineViolationsCorruptTheFrame : Obligations.LineViolationsCorruptTheFrame := by
  refine ⟨fun p vs v latency before hp ht hlate hlatch => ?_, fun p w n hw hnone => ?_⟩
  · exact corrupt_of_late_channel hp ht vs v hlate hlatch (startsBit_of_latched hp rfl)
  · rw [observe_low_of_high hw, receiveHigh_of_none hnone]
    obtain ⟨hmark, hshown⟩ := lowCycle_of_corrupt (p := p) (w := markCorrupt w) (some n) 1 rfl rfl
    exact ⟨hmark, hshown, display_of_shown_nil hshown⟩

/-! ## A reset in a transmission (R121, R213) -/

/-- A reset that cuts a transmission marks the frame. -/
theorem observeBlock_of_cut {p : Params} {w : LedString} {s : State} (hr : s.pins.rst = true)
    (hph : s.phase = .high ∨ s.phase = .low) :
    observeBlock p w s = markCorrupt (observe p w s.dout) :=
  if_pos (by simpa [resetCuts, hr] using hph)

/-- A corrupt frame stays corrupt, or latches with nothing known (R121). -/
theorem observe_of_corrupt {p : Params} {w : LedString} (x : Level) (hw : w.corrupt = true) :
    (observe p w x).corrupt = true ∨
      (observe p w x).line = .latched ∧ (observe p w x).shown = [] := by
  obtain ⟨l, bs, h⟩ | ⟨l, h⟩ | ⟨bs, h⟩ | h := observe_cases p w x <;> rw [h]
  · exact .inl hw
  · exact .inl rfl
  · exact .inr ⟨rfl, latchFrame_shown_of_corrupt hw⟩
  · exact .inr ⟨rfl, latchFrame_shown_of_corrupt rfl⟩

/-- Where nothing is known, only the latch of a correct frame makes something known (R120, R121). -/
theorem observe_of_shown_nil {p : Params} {w : LedString} (x : Level) (hw : w.shown = []) :
    (observe p w x).shown = [] ∨ w.corrupt = false ∧ (observe p w x).line = .latched := by
  obtain ⟨l, bs, h⟩ | ⟨l, h⟩ | ⟨bs, h⟩ | h := observe_cases p w x <;> rw [h]
  · exact .inl hw
  · exact .inl rfl
  · cases hc : w.corrupt with
    | true => exact .inl (latchFrame_shown_of_corrupt rfl)
    | false => exact .inr ⟨rfl, rfl⟩
  · exact .inl (latchFrame_shown_of_corrupt rfl)

/-- Settles O39: the reset values of PTX, the mark of the cut, and what one cycle makes of it. -/
theorem resetInATransmissionCorruptsTheFrame :
    Obligations.ResetInATransmissionCorruptsTheFrame := by
  refine ⟨fun s w hp hr hph => ⟨⟨resetEdge s, step_of_reset hp hr, ?_⟩, ?_⟩,
    fun p w x hw => observe_of_corrupt x hw,
    fun p w x hw => ⟨display_of_shown_nil hw, observe_of_shown_nil x hw⟩⟩
  · obtain ⟨hdout, hphase, -, -, hbits, -, -, -, hch, hcol⟩ :=
      PtxRegs.mk.inj (ptxRegs_resetEdge s)
    exact ⟨hdout, hphase, hbits, hch, hcol⟩
  · rw [observeBlock_of_cut hr hph]
    exact ⟨rfl, rfl, display_of_corrupt rfl⟩

end Sys2Proof.Machine
end

section
/-! PROOFS of the animator family: the colors of the hue wheel (R131, R132, R135) and the commands of a
frame (R133). -/

namespace Sys2Proof.Machine

/-! ## The color of a hue (R132), phase by phase -/

theorem colorForHue_of_phase_zero {hue : Nat} (g : Gamma) (h : hue % 192 / 64 = 0) :
    colorForHue g hue =
      { r := lookup g (63 - hue % 64), g := lookup g (hue % 64), b := 0#8 } := by
  have hoff : hue % 192 % 64 = hue % 64 := Nat.mod_mod_of_dvd hue (by decide)
  simp only [colorForHue, h, hoff]

theorem colorForHue_of_phase_one {hue : Nat} (g : Gamma) (h : hue % 192 / 64 = 1) :
    colorForHue g hue =
      { r := 0#8, g := lookup g (63 - hue % 64), b := lookup g (hue % 64) } := by
  have hoff : hue % 192 % 64 = hue % 64 := Nat.mod_mod_of_dvd hue (by decide)
  simp only [colorForHue, h, hoff]

theorem colorForHue_of_phase_two {hue : Nat} (g : Gamma) (h : hue % 192 / 64 = 2) :
    colorForHue g hue =
      { r := lookup g (hue % 64), g := 0#8, b := lookup g (63 - hue % 64) } := by
  have hoff : hue % 192 % 64 = hue % 64 := Nat.mod_mod_of_dvd hue (by decide)
  simp only [colorForHue, h, hoff]

/-- The hue enters only through its residue modulo 192. -/
theorem colorForHue_add_period (g : Gamma) (hue : Nat) :
    colorForHue g (hue + 192) = colorForHue g hue := by
  simp only [colorForHue, Nat.add_mod_right]

/-! ## The seams of the wheel (R135 (b)) -/

/-- The identity and every gamma table send 0 to 0 (R131). -/
theorem lookup_zero {g : Gamma} (hg : gammaMeetsRule g) : lookup g 0 = 0#8 := by
  cases g with
  | identity => rfl
  | table entries =>
    obtain ⟨-, hzero, -, -⟩ := hg
    exact hzero

/-- Both sides of the first seam are the full second channel alone. -/
theorem colorForHue_seam_one {g : Gamma} (hg : gammaMeetsRule g) :
    colorForHue g 63 = colorForHue g 64 := by
  rw [colorForHue_of_phase_zero g rfl, colorForHue_of_phase_one g rfl]
  simp [lookup_zero hg]

/-- Both sides of the second seam are the full third channel alone. -/
theorem colorForHue_seam_two {g : Gamma} (hg : gammaMeetsRule g) :
    colorForHue g 127 = colorForHue g 128 := by
  rw [colorForHue_of_phase_one g rfl, colorForHue_of_phase_two g rfl]
  simp [lookup_zero hg]

/-- Both sides of the wheel's end are the full first channel alone. -/
theorem colorForHue_seam_end {g : Gamma} (hg : gammaMeetsRule g) :
    colorForHue g 191 = colorForHue g 0 := by
  rw [colorForHue_of_phase_two g rfl, colorForHue_of_phase_zero g rfl]
  simp [lookup_zero hg]

/-- Settles O55: the hue is reduced modulo 192, and at a seam a channel that reads `lookup(0)` on one
side is the constant 0 on the other. -/
theorem hueWheelIsPeriodicAndSeamless : Obligations.HueWheelIsPeriodicAndSeamless := fun g =>
  ⟨colorForHue_add_period g,
    fun hg => ⟨colorForHue_seam_one hg, colorForHue_seam_two hg, colorForHue_seam_end hg⟩⟩

/-! ## The commands of a frame (R133) -/

@[simp] theorem renderFrame_length (g : Gamma) (start density count : Nat) :
    (renderFrame g start density count).length = count + 1 := by
  simp [renderFrame]

theorem renderFrame_getElem?_of_lt (g : Gamma) (start density : Nat) {count i : Nat}
    (h : i < count) :
    (renderFrame g start density count)[i]? = some (pixelCommand g start density i) := by
  have hpixels : i < ((List.range count).map (pixelCommand g start density)).length := by simpa
  rw [renderFrame, List.getElem?_append_left hpixels, List.getElem?_map, List.getElem?_range h,
    Option.map_some]

theorem renderFrame_getElem?_count (g : Gamma) (start density count : Nat) :
    (renderFrame g start density count)[count]? = some .latch := by
  simp [renderFrame]

/-- Settles O56: the first `count` commands are the pixels', and `LATCH` follows them. -/
theorem frameIsOneColorPerPixelThenLatch : Obligations.FrameIsOneColorPerPixelThenLatch :=
  fun g start density count =>
    ⟨renderFrame_length g start density count,
      fun _ hi => renderFrame_getElem?_of_lt g start density hi,
      renderFrame_getElem?_count g start density count⟩

end Sys2Proof.Machine
end

section
/-! PROOFS of the remote decoder family, one cycle. The checks on a frame (R157 to R159, R165); what IRPOLL
writes (R142, R143); one cycle and one sample of a decode (R144 to R156); the transitions of both units
(R167). -/

namespace Sys2Proof.Machine

/-! ## The checks on a frame (R157 to R159, R165) -/

/-- Two bytes sum to 255, unreduced, exactly when they are complements. -/
theorem toNat_add_toNat_eq_255_iff (a b : Byte) : a.toNat + b.toNat = 255 ↔ b = ~~~ a := by
  rw [← BitVec.toNat_inj, BitVec.toNat_not]
  omega

theorem commandChecks_iff (d : BitVec 32) :
    commandChecks d = true ↔ (cmd1 d).toNat + (cmd2 d).toNat = 255 := by
  rw [commandChecks, beq_iff_eq]

/-- The frame's address as a number (R158). -/
theorem frameAddress_toNat (a1 a2 : Byte) :
    (frameAddress a1 a2).toNat =
      if a1.toNat + a2.toNat = 255 then a1.toNat else a2.toNat * 256 + a1.toNat := by
  unfold frameAddress
  split
  · exact (BitVec.toNat_append 0x00#8 a1).trans (by simp)
  · rw [BitVec.toNat_append, ← Nat.shiftLeft_add_eq_or_of_lt a1.isLt, Nat.shiftLeft_eq]

/-- The checks of FINISH are the condition on `D` (R157 to R159, R164). -/
theorem frameAccepted_iff (p : Params) (d : BitVec 32) :
    frameAccepted p d = true ↔ dataAccepted p d := by
  have address : frameAddress (addr1 d) (addr2 d) = p.irAddr ↔
      (if (addr1 d).toNat + (addr2 d).toNat = 255 then (addr1 d).toNat
        else (addr2 d).toNat * 256 + (addr1 d).toNat) = p.irAddr.toNat := by
    rw [← BitVec.toNat_inj, frameAddress_toNat]
  refine Iff.trans ?_ (and_congr (commandChecks_iff d) address)
  unfold frameAccepted frameFault
  cases commandChecks d with
  | false => simp
  | true => by_cases ha : frameAddress (addr1 d) (addr2 d) = p.irAddr <;> simp [ha]

/-- Settles O46: the sum is 255 exactly for complements. -/
theorem commandCheckIsTheComplement : Obligations.CommandCheckIsTheComplement := fun d =>
  (commandChecks_iff d).trans (toNat_add_toNat_eq_255_iff _ _)

/-- An 8-bit address is that of a legacy frame, or of an extended one with `addr2 = 0x00` (R165). -/
theorem frameAddress_eq_setWidth_iff (a a1 a2 : Byte) :
    frameAddress a1 a2 = a.setWidth 16 ↔ a1 = a ∧ (a2 = ~~~ a ∨ a2 = 0x00#8) := by
  rw [← toNat_add_toNat_eq_255_iff, ← BitVec.toNat_inj, ← BitVec.toNat_inj, ← BitVec.toNat_inj,
    frameAddress_toNat, BitVec.toNat_setWidth_of_le (by decide), BitVec.toNat_ofNat]
  split
  · omega
  · omega

/-- Settles O47, by the frame's mode. -/
theorem addressBytesSelectTheMode : Obligations.AddressBytesSelectTheMode := by
  refine ⟨fun a1 a2 => ⟨fun h => ?_, fun h => ?_⟩, frameAddress_eq_setWidth_iff⟩
  · rw [frameAddress, if_pos h]
    exact (BitVec.setWidth_eq_append (by decide)).symm
  · rw [frameAddress, if_neg h]
    exact (BitVec.setWidth_eq (a2 ++ a1)).symm.trans
      BitVec.setWidth_append_eq_shiftLeft_setWidth_or

/-- Settles O48: in the first mode the address fits a byte, in the second its bytes do not sum to 255. -/
theorem mixedAddressMatchesNoFrame : Obligations.MixedAddressMatchesNoFrame := by
  intro p d hhigh hsum
  rw [Bool.eq_false_iff, Ne, frameAccepted_iff]
  rintro ⟨-, haddr⟩
  have hlow := (d.extractLsb' 0 8).isLt
  split at haddr
  · omega
  · omega

/-! ## The next cycle's decoder (R142 to R144) -/

/-- The same decode has the same IRD registers but for the prescaler. -/
theorem SameDecode.irdRegs_eq {s t : State} (h : SameDecode s t) :
    irdRegs s = { irdRegs t with tick := s.tick } := by
  simp [irdRegs, h.ist, h.dur, h.shreg, h.nrx]

theorem SameDecode.rspRegs_eq {s t : State} (h : SameDecode s t) : rspRegs s = rspRegs t := by
  simp [rspRegs, h.rspValid, h.rspOk, h.rspCmd]

/-- An accepted IRPOLL whose first sample is LOW (R142). -/
theorem exec_irpoll_low {s : State} (hs : s.canAccept = true) (hx : s.pins.irIn = false) :
    exec .irpoll s = .next (beginDecode s) := by
  simp [exec, execIrpoll, hs, hx]

/-- An accepted IRPOLL whose first sample is HIGH (R143). -/
theorem exec_irpoll_high {s : State} (hs : s.canAccept = true) (hx : s.pins.irIn = true) :
    exec .irpoll s = .next (State.respond false 0x00#8 s) := by
  simp [exec, execIrpoll, hs, hx]

/-- Settles O27, by the level of the first sample. -/
theorem irpollStartsADecodeOrFails : Obligations.IrpollStartsADecodeOrFails := fun _ hs =>
  ⟨exec_irpoll_low hs, exec_irpoll_high hs⟩

theorem canAccept_of_accepts {i : Instr} {s : State} (h : accepts i s) :
    s.clearPulse.canAccept = true :=
  canAccept_iff.mpr (fire_iff.mp h.1).2

/-- The step that accepts a poll of an idle line. -/
theorem step_of_poll_high {s : State} (hp : meetsRules s.params) (ha : accepts .irpoll s)
    (hx : s.pins.irIn = true) :
    step s = .next (endCycle (State.respond false 0x00#8 s.clearPulse)) :=
  step_of_fire_next hp ha.1 ha.2 (exec_irpoll_high (canAccept_of_accepts ha) hx)

/-- The step that accepts a poll of an asserted line. -/
theorem step_of_poll_low {s : State} (hp : meetsRules s.params) (ha : accepts .irpoll s)
    (hx : s.pins.irIn = false) : step s = .next (endCycle (beginDecode s.clearPulse)) :=
  step_of_fire_next hp ha.1 ha.2 (exec_irpoll_low (canAccept_of_accepts ha) hx)

/-- Settles O28: the response is all the step writes, and the units were idle. -/
theorem pollOfAnIdleLineFailsAtOnce : Obligations.PollOfAnIdleLineFailsAtOnce := by
  intro s hp ha hx
  obtain ⟨-, hphase, hist, -⟩ := fire_iff.mp ha.1
  refine ⟨_, step_of_poll_high hp ha hx, ?_, ?_, ?_, ?_⟩
  · simp [rspRegs, RspRegs.fail]
  · simp [ptxRegs]
  · simp [irdRegs]
  · simp [cmdReady_iff, hphase, hist]

/-- Settles O40: one cycle of a decode, by whether the prescaler is at 0. -/
theorem prescalerTakesASampleEveryTick : Obligations.PrescalerTakesASampleEveryTick := by
  intro s hp hr hi
  obtain ⟨t, ht, -, counts, samples⟩ := step_of_busy_ird hp hr hi
  refine ⟨fun htick => ⟨t, ht, ?_⟩, fun htick => ⟨t, ht, ?_⟩⟩
  · obtain ⟨same, hnext⟩ := counts htick
    exact ⟨by rw [same.irdRegs_eq, hnext, irdRegs_clearPulse], same.rspRegs_eq⟩
  · obtain ⟨same, hnext⟩ := samples htick
    have reloaded : SameDecode s.clearPulse
        { s with tick := s.params.tickDiv - 1, rspValid := false } := by constructor <;> rfl
    have same' := same.trans (reloaded.takeSample s.pins.irIn)
    exact ⟨by rw [same'.irdRegs_eq, hnext]; simp [irdRegs], same'.rspRegs_eq⟩

/-! ## One sample (R145 to R154) -/

/-- Settles O41: the level and the limit are those of the state. -/
theorem intervalCountsUpToItsLimit : Obligations.IntervalCountsUpToItsLimit := by
  intro s hi x hmem
  have row : s.ist ≠ .idle ∧ x = levelOf s.ist ∧ hi = limitOf s.params s.ist := by
    simp only [List.mem_cons, Prod.mk.injEq, List.not_mem_nil, or_false] at hmem
    obtain ⟨h, rfl, rfl⟩ | ⟨h, rfl, rfl⟩ | ⟨h, rfl, rfl⟩ | ⟨h, rfl, rfl⟩ | ⟨h, rfl, rfl⟩ := hmem <;>
      simp [h, levelOf, limitOf]
  obtain ⟨hbusy, rfl, rfl⟩ := row
  exact ⟨takeSample_aborts hbusy, takeSample_counts hbusy⟩

/-- The interval `i` ends, if it is not below the limit `lo`, and the interval `n` begins (R150 to
R152). -/
inductive EndsInto (p : Params) : IrState → Nat → IrState → Prop
  | leadMark : EndsInto p .leadMark p.leadMark.lo .leadSpace
  | leadSpace : EndsInto p .leadSpace p.leadSpace.lo .bitMark
  | bitMark : EndsInto p .bitMark p.bitMark.lo .bitSpace

theorem EndsInto.verdict_edge {p : Params} {i n : IrState} {lo : Nat} (h : EndsInto p i lo n)
    (dur : Nat) : ∃ c, verdict p i dur (!levelOf i) = ends dur lo c (.leaveTo n) := by
  cases h <;> exact ⟨_, rfl⟩

/-- Too short an interval aborts. -/
theorem EndsInto.takeSample_short {s : State} {lo : Nat} {n : IrState}
    (h : EndsInto s.params s.ist lo n) (hd : s.dur.toNat < lo) :
    takeSample (!levelOf s.ist) s = abortDecode s := by
  obtain ⟨c, hv⟩ := h.verdict_edge s.dur.toNat
  rw [takeSample, hv, ends, if_pos hd, applyVerdict]

/-- An interval that is long enough leads to the next. -/
theorem EndsInto.takeSample_next {s : State} {lo : Nat} {n : IrState}
    (h : EndsInto s.params s.ist lo n) (hd : lo ≤ s.dur.toNat) :
    takeSample (!levelOf s.ist) s = enterInterval n s := by
  obtain ⟨c, hv⟩ := h.verdict_edge s.dur.toNat
  rw [takeSample, hv, ends, if_neg hd.not_gt, applyVerdict]

/-- Settles O42: the level is not the state's, the limit and the next state are its own. -/
theorem intervalEndsIntoTheNextState : Obligations.IntervalEndsIntoTheNextState := by
  intro s lo x n hmem
  have row : x = !levelOf s.ist ∧ EndsInto s.params s.ist lo n := by
    simp only [List.mem_cons, Prod.mk.injEq, List.not_mem_nil, or_false] at hmem
    obtain ⟨h, rfl, rfl, rfl⟩ | ⟨h, rfl, rfl, rfl⟩ | ⟨h, rfl, rfl, rfl⟩ := hmem <;> rw [h]
    · exact ⟨rfl, .leadMark⟩
    · exact ⟨rfl, .leadSpace⟩
    · exact ⟨rfl, .bitMark⟩
  obtain ⟨rfl, hends⟩ := row
  exact ⟨hends.takeSample_short, hends.takeSample_next⟩

/-- The model's end of a bit space reads the windows as `spaceBit` does (R153). -/
theorem endsBitSpace_eq (p : Params) (n : Nat) :
    endsBitSpace p n = (spaceBit p n).elim (.abort .bitSpace) .dataBit := by
  unfold endsBitSpace spaceBit
  split
  · rfl
  split <;> rfl

/-- A bit space outside both windows aborts. -/
theorem takeSample_of_bad_space {s : State} (hi : s.ist = .bitSpace)
    (h : spaceBit s.params s.dur.toNat = none) : takeSample false s = abortDecode s := by
  rw [takeSample, hi, verdict, endsBitSpace_eq, h]
  rfl

/-- A bit space inside one of them gives its bit. -/
theorem takeSample_of_space {s : State} {b : Bool} (hi : s.ist = .bitSpace)
    (h : spaceBit s.params s.dur.toNat = some b) : takeSample false s = receiveBit b s := by
  rw [takeSample, hi, verdict, endsBitSpace_eq, h]
  rfl

/-- `shreg` with the bit `b` entered at bit 31 (R34, R153). -/
def shiftIn (b : Bool) (d : BitVec 32) : BitVec 32 := BitVec.ofBool b ++ d.extractLsb' 1 31

theorem shiftIn_toNat (b : Bool) (d : BitVec 32) :
    (shiftIn b d).toNat = b.toNat * 2 ^ 31 + d.toNat / 2 := by
  have hd := d.isLt
  have hrest : (d.extractLsb' 1 31).toNat = d.toNat / 2 := by
    rw [BitVec.extractLsb'_toNat, Nat.shiftRight_eq_div_pow]
    omega
  have happ := BitVec.toNat_append (BitVec.ofBool b) (d.extractLsb' 1 31)
  rw [← Nat.shiftLeft_add_eq_or_of_lt (d.extractLsb' 1 31).isLt, Nat.shiftLeft_eq,
    BitVec.toNat_ofBool, hrest] at happ
  exact happ

/-- `b` at bit 31, the rest moved toward bit 0 (R34, R153). -/
theorem shiftIn_eq (b : Bool) (d : BitVec 32) :
    shiftIn b d = (if b then 0x80000000#32 else 0#32) ||| d >>> 1 := by
  have hrest : d.toNat / 2 < 2 ^ 31 := by have := d.isLt; omega
  apply BitVec.eq_of_toNat_eq
  rw [shiftIn_toNat, BitVec.toNat_or, BitVec.toNat_ushiftRight, Nat.shiftRight_eq_div_pow]
  cases b with
  | false => simp
  | true => simpa using Nat.two_pow_add_eq_or_of_lt hrest 1

/-- Settles O43, by the bit the space stands for. -/
theorem bitSpaceGivesTheBit : Obligations.BitSpaceGivesTheBit := by
  refine fun s hi => ⟨takeSample_of_bad_space hi, fun b h => ?_⟩
  rw [takeSample_of_space hi h, ← shiftIn_eq]
  rfl

/-- The end of the trail mark (R154). -/
theorem takeSample_of_trail {s : State} (hi : s.ist = .trailMark) :
    takeSample true s =
      if s.dur.toNat < s.params.bitMark.lo then abortDecode s else finishDecode s := by
  rw [takeSample, hi, verdict, ends, apply_ite (applyVerdict · s)]
  rfl

/-- A frame that passes the checks is a success (R156, R159). -/
theorem finishDecode_of_accepted {s : State} (h : dataAccepted s.params s.shreg) :
    finishDecode s = endDecode true (cmd1 s.shreg) s := by
  rw [finishDecode, (frameAccepted_iff _ _).mpr h]

/-- One that does not is a FAIL (R36, R156, R159). -/
theorem finishDecode_of_rejected {s : State} (h : ¬ dataAccepted s.params s.shreg) :
    finishDecode s = abortDecode s := by
  rw [finishDecode, Bool.eq_false_iff.mpr (mt (frameAccepted_iff _ _).mp h)]
  rfl

/-- Settles O44, by the length of the mark and the data. -/
theorem trailMarkEndsTheDecode : Obligations.TrailMarkEndsTheDecode := by
  intro s hi
  rw [takeSample_of_trail hi]
  refine ⟨fun hd => if_pos hd, fun hd hdata => ?_, fun hd hdata => ?_⟩
  · exact (if_neg hd.not_gt).trans (finishDecode_of_accepted hdata)
  · exact (if_neg hd.not_gt).trans (finishDecode_of_rejected hdata)

/-- Settles O45: ABORT is the end of a decode with FAIL. -/
theorem abortFailsAndReturnsToIdle : Obligations.AbortFailsAndReturnsToIdle := fun _ => rfl

/-- A measuring state ends into the next one, in a bit, or in the end of the decode (R145, table). -/
theorem measuring_cases (p : Params) {i : IrState} (hi : i ≠ .idle) :
    (∃ lo n, EndsInto p i lo n) ∨ i = .bitSpace ∨ i = .trailMark := by
  cases i with
  | idle => exact absurd rfl hi
  | leadMark => exact .inl ⟨_, _, .leadMark⟩
  | leadSpace => exact .inl ⟨_, _, .leadSpace⟩
  | bitMark => exact .inl ⟨_, _, .bitMark⟩
  | bitSpace => exact .inr (.inl rfl)
  | trailMark => exact .inr (.inr rfl)

/-- Everything a sample of a decode can do (R145 to R154), with the intervals it leads from and to. -/
theorem takeSample_outcomes (x : Level) {s : State} (hi : s.ist ≠ .idle) :
    takeSample x s = abortDecode s ∨
    (s.dur.toNat < limitOf s.params s.ist ∧ takeSample x s = { s with dur := s.dur + 1#8 }) ∨
    (∃ lo n, EndsInto s.params s.ist lo n ∧ takeSample x s = enterInterval n s) ∨
    (s.ist = .bitSpace ∧ ∃ b, takeSample x s = receiveBit b s) ∨
    takeSample x s = finishDecode s := by
  by_cases hx : x = levelOf s.ist
  · subst hx
    by_cases hd : s.dur.toNat < limitOf s.params s.ist
    · exact .inr (.inl ⟨hd, takeSample_counts hi hd⟩)
    · exact .inl (takeSample_aborts hi (not_lt.mp hd))
  obtain rfl := Bool.eq_not.mpr hx
  obtain ⟨lo, n, h⟩ | h | h := measuring_cases s.params hi
  · exact (Nat.lt_or_ge s.dur.toNat lo).imp h.takeSample_short fun hd =>
      .inr (.inl ⟨lo, n, h, h.takeSample_next hd⟩)
  · rw [h]
    cases hb : spaceBit s.params s.dur.toNat with
    | none => exact .inl (takeSample_of_bad_space h hb)
    | some b => exact .inr (.inr (.inr (.inl ⟨rfl, b, takeSample_of_space h hb⟩)))
  · rw [h, show (!levelOf .trailMark) = true from rfl, takeSample_of_trail h]
    split
    · exact .inl rfl
    · exact .inr (.inr (.inr (.inr rfl)))

/-! ## Transitions (R167) -/

theorem phaseMoves_self (a : Phase) : phaseMoves a a = true := by simp [phaseMoves]

theorem istMoves_self (a : IrState) : istMoves a a = true := by simp [istMoves]

/-- Every decode may end in any interval. -/
theorem istMoves_idle (a : IrState) : istMoves a .idle = true := by simp [istMoves]

theorem EndsInto.istMoves {p : Params} {i n : IrState} {lo : Nat} (h : EndsInto p i lo n) :
    istMoves i n = true := by
  cases h <;> rfl

theorem istMoves_takeSample (x : Level) {s : State} (hi : s.ist ≠ .idle) :
    istMoves s.ist (takeSample x s).ist = true := by
  obtain h | ⟨-, h⟩ | ⟨lo, n, hends, h⟩ | ⟨hbit, b, h⟩ | h := takeSample_outcomes x hi <;> rw [h]
  · exact istMoves_idle _
  · exact istMoves_self _
  · exact hends.istMoves
  · rw [hbit, receiveBit_ist]
    split <;> rfl
  · exact istMoves_idle _

theorem istMoves_irdStep (s : State) : istMoves s.ist (irdStep s).ist = true := by
  by_cases hi : s.ist = .idle
  · rw [irdStep_of_idle hi]
    exact istMoves_self _
  · rw [irdStep_of_busy hi]
    split
    · exact istMoves_self _
    · exact istMoves_takeSample (s := { s with tick := s.params.tickDiv - 1 }) _ hi

/-- A channel ends in the next one or at rest (R107). -/
theorem endChannel_phase (s : State) :
    (endChannel s).phase = .high ∨ (endChannel s).phase = .idle := by
  unfold endChannel
  split
  · exact .inl rfl
  split
  · exact .inl rfl
  · exact .inr rfl

theorem phaseMoves_ptxStep (s : State) : phaseMoves s.phase (ptxStep s).phase = true := by
  cases hph : s.phase with
  | idle => rw [ptxStep_of_idle hph, hph]; rfl
  | high =>
    rw [ptxStep_of_high hph, highStep]
    split
    · simp [hph, phaseMoves]
    · rfl
  | low =>
    rw [ptxStep_of_low hph, lowStep]
    split
    · simp [hph, phaseMoves]
    split
    · rfl
    · obtain h | h := endChannel_phase s <;> rw [h] <;> rfl
  | latch =>
    rw [ptxStep_of_latch hph, latchStep]
    split
    · simp [hph, phaseMoves]
    · rfl

/-- A command of PTX starts a channel or the latch wait, or nothing (R102 to R104, R108). -/
theorem phaseMoves_exec {i : Instr} {s t : State} (hidle : s.phase = .idle)
    (h : exec i s = .next t) : phaseMoves s.phase t.phase = true := by
  have keep {u : State} (hu : onAccept s u = .next t) (hmoves : phaseMoves s.phase u.phase = true) :
      phaseMoves s.phase t.phase = true :=
    onAccept_induct (P := fun v => phaseMoves s.phase v.phase = true) hu (phaseMoves_self _) hmoves
  cases i with
  | sendch value => exact keep h (by rw [hidle]; rfl)
  | wrcolor r g b w => exact keep h (by rw [hidle]; rfl)
  | clear n =>
    refine keep h ?_
    split
    · rw [hidle]; rfl
    · exact phaseMoves_self _
  | latch => exact keep h (by rw [hidle]; rfl)
  | irpoll => exact keep h (by split <;> exact phaseMoves_self _)

/-- A poll starts a decode, or nothing (R142, R143). -/
theorem istMoves_exec {i : Instr} {s t : State} (hidle : s.ist = .idle) (h : exec i s = .next t) :
    istMoves s.ist t.ist = true := by
  by_cases hi : i = .irpoll
  · subst hi
    refine onAccept_induct (P := fun v => istMoves s.ist v.ist = true) h (istMoves_self _) ?_
    split
    · exact istMoves_self _
    · rw [hidle]
      rfl
  · have same : t.ist = s.ist := congrArg IrdRegs.ist (exec_irdRegs_rspRegs hi h).1
    rw [same]
    exact istMoves_self _

/-- Settles O20, by what a step can do: an accepted command starts one unit, any other step is a step of
the two. -/
theorem unitsMoveOnlyAlongTheListedTransitions :
    Obligations.UnitsMoveOnlyAlongTheListedTransitions := by
  intro s t hr h
  obtain ⟨-, ⟨hrst, -⟩ | ⟨-, hf, i, u, -, he, rfl⟩ | ⟨-, -, -, rfl⟩ | ⟨-, -, rfl⟩⟩ := step_cases h
  · simp [hr] at hrst
  · obtain ⟨-, hphase, hist, -⟩ := fire_iff.mp hf
    rw [endCycle_phase, endCycle_ist]
    exact ⟨phaseMoves_exec (s := s.clearPulse) hphase he, istMoves_exec (s := s.clearPulse) hist he⟩
  · simp [phaseMoves_self, istMoves_self]
  · rw [endCycle_phase, endCycle_ist, unitsStep, irdStep_phase]
    refine ⟨phaseMoves_ptxStep s.clearPulse, ?_⟩
    simpa using istMoves_irdStep (ptxStep s.clearPulse)

end Sys2Proof.Machine
end

section
/-! PROOFS of the remote decoder family, sample streams. What the samples of whole intervals do to a decode
(R145 to R154), in both directions: the frames that are decoded (R164), the lines that are not (R150, R162),
and what a poll forgets (R161). -/

namespace Sys2Proof.Machine

/-! ## Runs of samples -/

/-- Samples begin with a run, maybe empty, of either level. -/
theorem exists_run (x : Level) (xs : List Level) :
    ∃ m ys, xs = List.replicate m x ++ ys ∧ ys.head? ≠ some x := by
  induction xs with
  | nil => exact ⟨0, [], rfl, nofun⟩
  | cons z xs ih =>
    by_cases hz : z = x
    · obtain ⟨m, ys, rfl, hys⟩ := ih
      exact ⟨m + 1, ys, by rw [hz, List.replicate_succ, List.cons_append], hys⟩
    · exact ⟨0, z :: xs, rfl, by simpa using hz⟩

theorem head?_replicate_append {m : Nat} (hm : 1 ≤ m) (x : Level) (xs : List Level) :
    (List.replicate m x ++ xs).head? = some x := by
  obtain ⟨k, rfl⟩ := Nat.exists_eq_add_of_le' hm
  rfl

/-! ## Intervals -/

theorem EndsInto.ne_idle {p : Params} {i n : IrState} {lo : Nat} (h : EndsInto p i lo n) :
    i ≠ .idle ∧ n ≠ .idle := by
  cases h <;> exact ⟨nofun, nofun⟩

/-- Marks and spaces alternate. -/
theorem EndsInto.levelOf_eq {p : Params} {i n : IrState} {lo : Nat} (h : EndsInto p i lo n) :
    levelOf n = !levelOf i := by
  cases h <;> rfl

theorem EndsInto.lo_le {p : Params} {i n : IrState} {lo : Nat} (hp : meetsRules p)
    (h : EndsInto p i lo n) : lo ≤ limitOf p i := by
  obtain ⟨⟨-, -, -, -, -, -, ⟨-, hlead, -⟩, ⟨-, hspace, -⟩, ⟨-, hmark, -⟩, -⟩, -⟩ := hp
  cases h
  · exact hlead
  · exact hspace
  · exact hmark

/-- Every interval may last at least one sample. -/
theorem limitOf_pos {p : Params} (hp : meetsRules p) {i : IrState} (hi : i ≠ .idle) :
    1 ≤ limitOf p i := by
  obtain ⟨⟨-, -, -, -, -, -, hlead, hspace, hmark, -, hone, -⟩, -⟩ := hp
  cases i with
  | idle => exact absurd rfl hi
  | leadMark => exact hlead.1.trans hlead.2.1
  | leadSpace => exact hspace.1.trans hspace.2.1
  | bitMark => exact hmark.1.trans hmark.2.1
  | bitSpace => exact hone.1.trans hone.2.1
  | trailMark => exact hmark.1.trans hmark.2.1

/-- A decode that has counted `m` samples of the interval `i`. -/
def inInterval (i : IrState) (m : Nat) (s : State) : State :=
  { s with ist := i, dur := BitVec.ofNat 8 m }

/-- A decode about to count the first sample of the interval `i`. No cycle of the block holds it: the
sample that begins an interval is counted when it ends the one before (R149). It lets a stream be cut
between its intervals. -/
def intervalStart (i : IrState) (s : State) : State := inInterval i 0 s

/-- A count within the limit is what `dur` holds (R33). -/
theorem inInterval_dur {s : State} {i : IrState} {m : Nat} (hp : meetsRules s.params)
    (hm : m ≤ limitOf s.params i) : (inInterval i m s).dur.toNat = m := by
  have hlimit := limitOf_le hp i
  rw [inInterval, BitVec.toNat_ofNat]
  omega

/-- The first sample of an interval, counted after the cut or in the entry to the interval (R149). -/
theorem sampleAll_intervalStart {s : State} {i : IrState} (hp : meetsRules s.params)
    (hi : i ≠ .idle) {ys : List Level} (hy : ys.head? = some (levelOf i)) :
    sampleAll ys (intervalStart i s) = sampleAll ys.tail (enterInterval i s) := by
  obtain ⟨xs, rfl⟩ := List.head?_eq_some_iff.mp hy
  have counted : takeSample (levelOf i) (intervalStart i s) = enterInterval i s :=
    takeSample_counts (s := intervalStart i s) hi (limitOf_pos hp hi)
  rw [sampleAll_cons (s := intervalStart i s) hi, counted, List.tail_cons]

/-- The samples of one interval are counted. -/
theorem sampleAll_interval {s : State} {i : IrState} (hp : meetsRules s.params) (hi : i ≠ .idle)
    {m : Nat} (hm : m ≤ limitOf s.params i) (ys : List Level) :
    sampleAll (List.replicate m (levelOf i) ++ ys) (intervalStart i s) =
      sampleAll ys (inInterval i m s) := by
  have run := sampleAll_run (s := intervalStart i s) hp hi m ((Nat.zero_add m).trans_le hm) ys
  rwa [show (intervalStart i s).dur.toNat + m = m from Nat.zero_add m] at run

/-- The sample after them, at the other level, sees their count. -/
theorem sampleAll_interval_edge {s : State} {i : IrState} (hp : meetsRules s.params)
    (hi : i ≠ .idle) {m : Nat} (hm : m ≤ limitOf s.params i) {ys : List Level}
    (hy : ys.head? = some (!levelOf i)) :
    sampleAll (List.replicate m (levelOf i) ++ ys) (intervalStart i s) =
      sampleAll ys.tail (takeSample (!levelOf i) (inInterval i m s)) := by
  obtain ⟨xs, rfl⟩ := List.head?_eq_some_iff.mp hy
  rw [sampleAll_interval hp hi hm, sampleAll_cons (s := inInterval i m s) hi, List.tail_cons]

/-- Too many samples of one level abort (R147). -/
theorem sampleAll_interval_long {s : State} {i : IrState} (hp : meetsRules s.params)
    (hi : i ≠ .idle) {m : Nat} (hm : limitOf s.params i < m) (ys : List Level) :
    sampleAll (List.replicate m (levelOf i) ++ ys) (intervalStart i s) = abortDecode s :=
  sampleAll_run_aborts (s := intervalStart i s) hp hi m (hm.trans_eq (Nat.zero_add m).symm)
    (Nat.zero_le _) ys

/-- An interval of a permitted length leads to the next. -/
theorem EndsInto.sampleAll_next {s : State} {i n : IrState} {lo m : Nat} (hp : meetsRules s.params)
    (h : EndsInto s.params i lo n) (hlo : lo ≤ m) (hhi : m ≤ limitOf s.params i) {ys : List Level}
    (hy : ys.head? = some (levelOf n)) :
    sampleAll (List.replicate m (levelOf i) ++ ys) (intervalStart i s) =
      sampleAll ys (intervalStart n s) := by
  obtain ⟨hi, hn⟩ := h.ne_idle
  have entered : takeSample (!levelOf i) (inInterval i m s) = enterInterval n (inInterval i m s) :=
    h.takeSample_next (s := inInterval i m s) (by rwa [inInterval_dur hp hhi])
  rw [sampleAll_intervalStart hp hn hy, sampleAll_interval_edge hp hi hhi (h.levelOf_eq ▸ hy),
    entered]
  rfl

/-- Too short an interval aborts (R150 to R152). -/
theorem EndsInto.sampleAll_short {s : State} {i n : IrState} {lo m : Nat} (hp : meetsRules s.params)
    (h : EndsInto s.params i lo n) (hm : m < lo) {ys : List Level}
    (hy : ys.head? = some (levelOf n)) :
    sampleAll (List.replicate m (levelOf i) ++ ys) (intervalStart i s) = abortDecode s := by
  have hhi := hm.le.trans (h.lo_le hp)
  have aborted : takeSample (!levelOf i) (inInterval i m s) = abortDecode (inInterval i m s) :=
    h.takeSample_short (s := inInterval i m s) (by rwa [inInterval_dur hp hhi])
  rw [sampleAll_interval_edge hp h.ne_idle.1 hhi (h.levelOf_eq ▸ hy), aborted]
  exact sampleAll_of_idle rfl _

/-! ## The bits (R153) -/

/-- The interval that follows a bit space: the next bit's mark, or the trail mark. -/
def markAfter (s : State) : IrState := if s.nrx = 32#6 then .trailMark else .bitMark

theorem markAfter_ne_idle (s : State) : markAfter s ≠ .idle := by
  unfold markAfter
  split <;> decide

theorem levelOf_markAfter (s : State) : levelOf (markAfter s) = false := by
  unfold markAfter
  split <;> rfl

/-- The bit `b` has entered. -/
def withBit (b : Bool) (s : State) : State :=
  { s with shreg := shiftIn b s.shreg, nrx := s.nrx + 1#6 }

theorem receiveBit_eq (b : Bool) (s : State) :
    receiveBit b s = enterInterval (markAfter (withBit b s)) (withBit b s) := rfl

/-- A space that stands for a bit is in one of the two windows (R153). -/
theorem windows_of_spaceBit {p : Params} {n : Nat} (h : (spaceBit p n).isSome) :
    inWindow p.zeroSpace n ∨ inWindow p.oneSpace n := by
  unfold spaceBit at h
  split at h
  case isTrue hzero => exact .inl hzero
  case isFalse =>
    split at h
    case isTrue hone => exact .inr hone
    case isFalse => exact absurd h Bool.false_ne_true

theorem pos_of_inWindow {w : Window} {n : Nat} (hw : windowInDomain w) (h : inWindow w n) :
    1 ≤ n :=
  hw.1.trans h.1

theorem pos_of_spaceBit {p : Params} (hp : meetsRules p) {n : Nat} (h : (spaceBit p n).isSome) :
    1 ≤ n := by
  obtain ⟨⟨-, -, -, -, -, -, -, -, -, hzero, hone, -⟩, -⟩ := hp
  exact (windows_of_spaceBit h).elim (pos_of_inWindow hzero) (pos_of_inWindow hone)

/-- Such a space is within the limit of its interval: the window of 1 is above that of 0 (R6). -/
theorem le_limitOf_of_spaceBit {p : Params} (hp : meetsRules p) {n : Nat}
    (h : (spaceBit p n).isSome) : n ≤ limitOf p .bitSpace := by
  obtain ⟨⟨-, -, -, -, -, -, -, -, -, -, ⟨-, hone, -⟩, hbelow⟩, -⟩ := hp
  obtain ⟨-, hzero⟩ | ⟨-, hhi⟩ := windows_of_spaceBit h
  · exact hzero.trans (hbelow.le.trans hone)
  · exact hhi

/-- A space inside a window gives its bit and leads to the next mark. -/
theorem sampleAll_space {s : State} {m : Nat} {b : Bool} (hp : meetsRules s.params)
    (hb : spaceBit s.params m = some b) {ys : List Level} (hy : ys.head? = some false) :
    sampleAll (List.replicate m true ++ ys) (intervalStart .bitSpace s) =
      sampleAll ys (intervalStart (markAfter (withBit b s)) (withBit b s)) := by
  have hm : m ≤ limitOf s.params .bitSpace := le_limitOf_of_spaceBit hp (by simp [hb])
  have received : takeSample false (inInterval .bitSpace m s) =
      receiveBit b (inInterval .bitSpace m s) :=
    takeSample_of_space rfl (by rwa [inInterval_dur hp hm])
  rw [sampleAll_intervalStart (s := withBit b s) hp (markAfter_ne_idle _)
    (by rwa [levelOf_markAfter])]
  exact (sampleAll_interval_edge hp (i := .bitSpace) nofun hm hy).trans
    (congrArg (sampleAll ys.tail) received)

/-- A space outside both windows aborts. -/
theorem sampleAll_space_bad {s : State} {m : Nat} (hp : meetsRules s.params)
    (hb : spaceBit s.params m = none) {ys : List Level} (hy : ys.head? = some false) :
    sampleAll (List.replicate m true ++ ys) (intervalStart .bitSpace s) = abortDecode s := by
  by_cases hm : m ≤ limitOf s.params .bitSpace
  · have aborted : takeSample false (inInterval .bitSpace m s) =
        abortDecode (inInterval .bitSpace m s) :=
      takeSample_of_bad_space rfl (by rwa [inInterval_dur hp hm])
    refine (sampleAll_interval_edge hp (i := .bitSpace) nofun hm hy).trans ?_
    exact (congrArg (sampleAll ys.tail) aborted).trans (sampleAll_of_idle rfl _)
  · exact sampleAll_interval_long hp (i := .bitSpace) nofun (not_le.mp hm) ys

/-- The end of a trail mark (R154): nothing after it is read. -/
theorem sampleAll_trail {s : State} {m : Nat} (hp : meetsRules s.params)
    (hm : m ≤ s.params.bitMark.hi) (xs : List Level) :
    sampleAll (List.replicate m false ++ true :: xs) (intervalStart .trailMark s) =
      if m < s.params.bitMark.lo then abortDecode s else finishDecode s := by
  have ended := takeSample_of_trail (s := inInterval .trailMark m s) rfl
  rw [inInterval_dur (i := .trailMark) hp hm] at ended
  refine (sampleAll_interval_edge hp (i := .trailMark) nofun hm rfl).trans ?_
  exact (congrArg (sampleAll xs) ended).trans (sampleAll_of_idle (by split <;> rfl) xs)

/-- The samples of data bits, each a mark and a space. -/
def bitSamples (bits : List (Nat × Nat)) : List Level :=
  bits.flatMap fun b => List.replicate b.1 false ++ List.replicate b.2 true

/-- Every mark and every space is inside a window. -/
def bitsInWindows (p : Params) (bits : List (Nat × Nat)) : Prop :=
  ∀ b ∈ bits, inWindow p.bitMark b.1 ∧ (spaceBit p b.2).isSome

/-- Data bits begin with a mark. -/
theorem head?_bitSamples_append {p : Params} (hp : meetsRules p) {bits : List (Nat × Nat)}
    (hin : bitsInWindows p bits) {ys : List Level} (hy : ys.head? = some false) :
    (bitSamples bits ++ ys).head? = some false := by
  obtain ⟨⟨-, -, -, -, -, -, -, -, hmark, -⟩, -⟩ := hp
  cases bits with
  | nil => exact hy
  | cons b bits =>
    obtain ⟨⟨hb, -⟩, -⟩ := List.forall_mem_cons.mp hin
    simp only [bitSamples, List.flatMap_cons, List.append_assoc]
    exact head?_replicate_append (pos_of_inWindow hmark hb) false _

/-- The bits the spaces stand for. -/
def bitsOf (p : Params) (bits : List (Nat × Nat)) : List Bool :=
  bits.map fun b => (spaceBit p b.2).getD false

/-- `shreg` after bits, the first of them first. -/
def shiftInAll (bs : List Bool) (d : BitVec 32) : BitVec 32 := bs.foldl (fun d b => shiftIn b d) d

/-- The number whose bit `i` is bit `i` of the list (R86). -/
def numberOf (bs : List Bool) : Nat := bs.foldr (fun b acc => 2 * acc + b.toNat) 0

/-- Bits enter above those before them. -/
theorem shiftInAll_toNat (bs : List Bool) (hlen : bs.length ≤ 32) (d : BitVec 32) :
    (shiftInAll bs d).toNat =
      2 ^ (32 - bs.length) * numberOf bs + d.toNat / 2 ^ bs.length := by
  induction bs generalizing d with
  | nil => simp [shiftInAll, numberOf]
  | cons b bs ih =>
    obtain ⟨k, hk⟩ := Nat.exists_eq_add_of_le (show bs.length + 1 ≤ 32 from hlen)
    have place : b.toNat * 2 ^ 31 = 2 ^ bs.length * (b.toNat * 2 ^ k) := by
      rw [show 31 = bs.length + k by omega]
      ring
    calc (shiftInAll bs (shiftIn b d)).toNat
        = 2 ^ (k + 1) * numberOf bs + (b.toNat * 2 ^ 31 + d.toNat / 2) / 2 ^ bs.length := by
          rw [ih (by omega), shiftIn_toNat, show 32 - bs.length = k + 1 by omega]
      _ = 2 ^ k * (2 * numberOf bs + b.toNat) + d.toNat / 2 ^ (bs.length + 1) := by
          rw [place, Nat.mul_add_div (Nat.two_pow_pos _), Nat.div_div_eq_div_mul]
          ring_nf
      _ = _ := by
          rw [List.length_cons, show 32 - (bs.length + 1) = k by omega]
          rfl

/-- After 32 bits `shreg` is the number of those bits alone. -/
theorem shiftInAll_of_full {bs : List Bool} (hlen : bs.length = 32) (d : BitVec 32) :
    shiftInAll bs d = BitVec.ofNat 32 (numberOf bs) := by
  have hd : d.toNat / 2 ^ 32 = 0 := Nat.div_eq_of_lt d.isLt
  have h := shiftInAll_toNat bs hlen.le d
  rw [hlen, hd, Nat.sub_self, Nat.pow_zero, Nat.one_mul, Nat.add_zero] at h
  rw [← h, BitVec.ofNat_toNat, BitVec.setWidth_eq]

/-- A decode that has all its bits, with data `d`. -/
def withData (d : BitVec 32) (s : State) : State := { s with shreg := d, nrx := 32#6 }

/-- The bits that are left, all inside their windows, are received one after another. -/
theorem sampleAll_bits {s : State} (hp : meetsRules s.params) (bits : List (Nat × Nat))
    (hleft : s.nrx.toNat + bits.length = 32) (hin : bitsInWindows s.params bits) {ys : List Level}
    (hy : ys.head? = some false) :
    sampleAll (bitSamples bits ++ ys) (intervalStart (markAfter s) s) =
      sampleAll ys (intervalStart .trailMark
        (withData (shiftInAll (bitsOf s.params bits) s.shreg) s)) := by
  induction bits generalizing s with
  | nil =>
    have full : s.nrx = 32#6 := BitVec.eq_of_toNat_eq hleft
    have same : withData s.shreg s = s := by rw [withData, ← full]
    rw [markAfter, if_pos full]
    exact congrArg (sampleAll ys <| intervalStart .trailMark ·) same.symm
  | cons b bits ih =>
    obtain ⟨⟨⟨hlo, hhi⟩, hspace⟩, hrest⟩ := List.forall_mem_cons.mp hin
    obtain ⟨v, hv⟩ := Option.isSome_iff_exists.mp hspace
    have hroom : s.nrx.toNat < 32 := by rw [← hleft]; simp
    have notFull : s.nrx ≠ 32#6 := by rintro h; simp [h] at hroom
    have hleft' : (s.nrx + 1#6).toNat + bits.length = 32 := by
      rw [List.length_cons] at hleft
      bv_omega
    have hys := head?_bitSamples_append hp hrest hy
    calc sampleAll (bitSamples (b :: bits) ++ ys) (intervalStart (markAfter s) s)
        = sampleAll (List.replicate b.1 false ++
            (List.replicate b.2 true ++ (bitSamples bits ++ ys))) (intervalStart .bitMark s) := by
          rw [markAfter, if_neg notFull]
          simp [bitSamples]
      _ = sampleAll (List.replicate b.2 true ++ (bitSamples bits ++ ys))
            (intervalStart .bitSpace s) :=
          EndsInto.bitMark.sampleAll_next hp hlo hhi
            (head?_replicate_append (pos_of_spaceBit hp hspace) true _)
      _ = sampleAll (bitSamples bits ++ ys)
            (intervalStart (markAfter (withBit v s)) (withBit v s)) :=
          sampleAll_space hp hv hys
      _ = _ := by
          rw [ih (s := withBit v s) hp hleft' hrest]
          simp [bitsOf, hv, shiftInAll, withBit, withData]

/-! ## Frames that are decoded (R164) -/

/-- A poll that begins LOW, cut before its first sample (R142). -/
theorem pollOn_eq {s : State} (hp : meetsRules s.params) {xs : List Level}
    (hx : xs.head? = some false) :
    pollOn s xs = sampleAll xs (intervalStart .leadMark (beginDecode s)) := by
  obtain ⟨ys, rfl⟩ := List.head?_eq_some_iff.mp hx
  exact (sampleAll_intervalStart (s := beginDecode s) (i := .leadMark) hp nofun (ys := false :: ys)
    rfl).symm

/-- A frame's data is the number of the bits its spaces stand for (R86). -/
theorem data_eq (p : Params) (d : Durations) :
    d.data p = BitVec.ofNat 32 (numberOf (bitsOf p d.bits)) := by
  rw [Durations.data, numberOf, bitsOf, List.foldr_map]

/-- The samples of a frame, interval by interval. -/
theorem samples_append (d : Durations) (rest : List Level) :
    d.samples ++ rest =
      List.replicate d.leadMark false ++ (List.replicate d.leadSpace true ++
        (bitSamples d.bits ++ (List.replicate d.trailMark false ++ true :: rest))) := by
  simp [Durations.samples, bitSamples]

/-- A poll on a frame inside its windows ends with the verdict on its data; nothing after the frame is
read. -/
theorem pollOn_samples {s : State} {d : Durations} (hp : meetsRules s.params)
    (hd : d.inWindows s.params) (rest : List Level) :
    pollOn s (d.samples ++ rest) =
      finishDecode (withData (d.data s.params) (beginDecode s)) := by
  obtain ⟨hleadMark, hleadSpace, hlen, hbits, htrail⟩ := hd
  obtain ⟨⟨-, -, -, -, -, -, hlm, hls, hbm, -⟩, -⟩ := id hp
  have trailLow := head?_replicate_append (pos_of_inWindow hbm htrail) false (true :: rest)
  have bitsLow := head?_bitSamples_append hp hbits trailLow
  have spaceHigh := head?_replicate_append (pos_of_inWindow hls hleadSpace) true
    (bitSamples d.bits ++ (List.replicate d.trailMark false ++ true :: rest))
  rw [samples_append, pollOn_eq hp (head?_replicate_append (pos_of_inWindow hlm hleadMark) _ _)]
  refine (EndsInto.leadMark.sampleAll_next (s := beginDecode s) hp hleadMark.1 hleadMark.2
    spaceHigh).trans ?_
  refine (EndsInto.leadSpace.sampleAll_next (s := beginDecode s) hp hleadSpace.1 hleadSpace.2
    bitsLow).trans ?_
  refine (sampleAll_bits (s := beginDecode s) hp d.bits (by simp [hlen]) hbits trailLow).trans ?_
  rw [shiftInAll_of_full (by rw [bitsOf, List.length_map, hlen])]
  refine (sampleAll_trail (s := withData _ (beginDecode s)) hp htrail.2 rest).trans ?_
  rw [data_eq]
  exact if_neg htrail.1.not_gt

/-- Settles O51: the poll ends as FINISH does on the frame's data. -/
theorem frameInWindowsIsDecoded : Obligations.FrameInWindowsIsDecoded := by
  intro s d hp _ hd
  have hpoll := pollOn_samples hp hd []
  rw [List.append_nil] at hpoll
  intro t
  rw [show t = _ from hpoll]
  refine ⟨rfl, rfl, fun hdata => ?_, fun hdata => ?_⟩
  · rw [finishDecode_of_accepted (s := withData (d.data s.params) (beginDecode s)) hdata]
    exact ⟨rfl, rfl⟩
  · rw [finishDecode_of_rejected (s := withData (d.data s.params) (beginDecode s)) hdata]
    exact ⟨rfl, rfl⟩

/-! ## Only such frames succeed (R164) -/

/-- The poll reports success. -/
def Succeeded (s : State) : Prop := s.rspValid = true ∧ s.rspOk = true

theorem not_succeeded_abortDecode (s : State) : ¬ Succeeded (abortDecode s) :=
  fun h => Bool.false_ne_true h.2

/-- Samples on which a decode succeeds begin with the whole of the interval it is in: a longer run
aborts, and a decode cannot end inside an interval. -/
theorem interval_of_succeeded {s : State} {i : IrState} (hp : meetsRules s.params) (hi : i ≠ .idle)
    (hv : s.rspValid = false) {xs : List Level}
    (h : Succeeded (sampleAll xs (intervalStart i s))) :
    ∃ m ys, xs = List.replicate m (levelOf i) ++ ys ∧ ys.head? = some (!levelOf i) ∧
      m ≤ limitOf s.params i := by
  obtain ⟨m, ys, rfl, hys⟩ := exists_run (levelOf i) xs
  have hm : m ≤ limitOf s.params i := by
    by_contra hlong
    rw [sampleAll_interval_long hp hi (not_le.mp hlong)] at h
    exact not_succeeded_abortDecode s h
  refine ⟨m, ys, rfl, ?_, hm⟩
  cases ys with
  | nil =>
    rw [sampleAll_interval hp hi hm] at h
    exact absurd (hv.symm.trans h.1) Bool.false_ne_true
  | cons y ys => simpa using Bool.eq_not.mpr fun hy => hys (congrArg some hy)

/-- The interval has at least its lower limit, and the rest is a success from the next one on. -/
theorem EndsInto.interval_of_succeeded {s : State} {i n : IrState} {lo : Nat}
    (hp : meetsRules s.params) (h : EndsInto s.params i lo n) (hv : s.rspValid = false)
    {xs : List Level} (hs : Succeeded (sampleAll xs (intervalStart i s))) :
    ∃ m ys, xs = List.replicate m (levelOf i) ++ ys ∧ lo ≤ m ∧ m ≤ limitOf s.params i ∧
      Succeeded (sampleAll ys (intervalStart n s)) := by
  obtain ⟨m, ys, rfl, hys, hhi⟩ := Machine.interval_of_succeeded hp h.ne_idle.1 hv hs
  rw [← h.levelOf_eq] at hys
  have hlo : lo ≤ m := by
    by_contra hshort
    rw [h.sampleAll_short hp (not_le.mp hshort) hys] at hs
    exact not_succeeded_abortDecode s hs
  rw [h.sampleAll_next hp hlo hhi hys] at hs
  exact ⟨m, ys, rfl, hlo, hhi, hs⟩

/-- The same for a bit space: it stands for a bit. -/
theorem space_of_succeeded {s : State} (hp : meetsRules s.params) (hv : s.rspValid = false)
    {xs : List Level} (hs : Succeeded (sampleAll xs (intervalStart .bitSpace s))) :
    ∃ m ys b, xs = List.replicate m true ++ ys ∧ spaceBit s.params m = some b ∧
      Succeeded (sampleAll ys (intervalStart (markAfter (withBit b s)) (withBit b s))) := by
  obtain ⟨m, ys, rfl, hys, -⟩ := interval_of_succeeded hp (i := .bitSpace) nofun hv hs
  cases hb : spaceBit s.params m with
  | none =>
    rw [show levelOf .bitSpace = true from rfl, sampleAll_space_bad hp hb hys] at hs
    exact absurd hs (not_succeeded_abortDecode s)
  | some b => exact ⟨m, ys, b, rfl, hb, sampleAll_space hp hb hys ▸ hs⟩

/-- And for the trail mark, which ends the decode. -/
theorem trail_of_succeeded {s : State} (hp : meetsRules s.params) (hv : s.rspValid = false)
    {xs : List Level} (hs : Succeeded (sampleAll xs (intervalStart .trailMark s))) :
    ∃ m ys, xs = List.replicate m false ++ true :: ys ∧ inWindow s.params.bitMark m := by
  obtain ⟨m, ys, rfl, hys, hhi⟩ := interval_of_succeeded hp (i := .trailMark) nofun hv hs
  obtain ⟨zs, rfl⟩ := List.head?_eq_some_iff.mp hys
  refine ⟨m, zs, rfl, ?_, hhi⟩
  by_contra hshort
  have habort := (sampleAll_trail hp hhi zs).trans (if_pos (not_le.mp hshort))
  exact not_succeeded_abortDecode s (habort ▸ hs)

/-- The bits that are left are whole bits inside their windows, and a trail mark follows. -/
theorem bits_of_succeeded (k : Nat) {s : State} (hp : meetsRules s.params)
    (hv : s.rspValid = false) (hleft : s.nrx.toNat + k = 32) {xs : List Level}
    (hs : Succeeded (sampleAll xs (intervalStart (markAfter s) s))) :
    ∃ bits ys m rest, xs = bitSamples bits ++ ys ∧ bits.length = k ∧
      bitsInWindows s.params bits ∧ ys = List.replicate m false ++ true :: rest ∧
      inWindow s.params.bitMark m := by
  induction k generalizing s xs with
  | zero =>
    have full : s.nrx = 32#6 := BitVec.eq_of_toNat_eq hleft
    rw [markAfter, if_pos full] at hs
    obtain ⟨m, rest, rfl, hm⟩ := trail_of_succeeded hp hv hs
    exact ⟨[], _, m, rest, rfl, rfl, nofun, rfl, hm⟩
  | succ k ih =>
    have notFull : s.nrx ≠ 32#6 := by rintro h; simp [h] at hleft
    have hleft' : (s.nrx + 1#6).toNat + k = 32 := by bv_omega
    rw [markAfter, if_neg notFull] at hs
    obtain ⟨mark, xs, rfl, hlo, hhi, hs⟩ := EndsInto.bitMark.interval_of_succeeded hp hv hs
    obtain ⟨space, xs, b, rfl, hb, hs⟩ := space_of_succeeded hp hv hs
    obtain ⟨bits, ys, m, rest, rfl, hlen, hin, rfl, hm⟩ := ih (s := withBit b s) hp hv hleft' hs
    refine ⟨(mark, space) :: bits, _, m, rest, ?_, congrArg (· + 1) hlen, ?_, rfl, hm⟩
    · simp [bitSamples, levelOf]
    · exact List.forall_mem_cons.mpr ⟨⟨⟨hlo, hhi⟩, by simp [hb]⟩, hin⟩

/-- A poll succeeds on the samples of a frame inside its windows only. -/
theorem frame_of_succeeded {s : State} (hp : meetsRules s.params) (hv : s.rspValid = false)
    {xs : List Level} (hs : Succeeded (pollOn s xs)) :
    ∃ (d : Durations) (rest : List Level), xs = d.samples ++ rest ∧ d.inWindows s.params := by
  have low : xs.head? = some false := by
    match xs, hs with
    | [], h => exact absurd (hv.symm.trans h.1) Bool.false_ne_true
    | true :: _, h => exact absurd h.2 Bool.false_ne_true
    | false :: _, _ => rfl
  rw [pollOn_eq hp low] at hs
  obtain ⟨leadMark, xs, rfl, hlmlo, hlmhi, hs⟩ :=
    EndsInto.leadMark.interval_of_succeeded (s := beginDecode s) hp hv hs
  obtain ⟨leadSpace, xs, rfl, hlslo, hlshi, hs⟩ :=
    EndsInto.leadSpace.interval_of_succeeded (s := beginDecode s) hp hv hs
  obtain ⟨bits, ys, trailMark, rest, rfl, hlen, hin, rfl, htrail⟩ :=
    bits_of_succeeded 32 (s := beginDecode s) hp hv rfl hs
  exact ⟨⟨leadMark, leadSpace, bits, trailMark⟩, rest,
    (samples_append ⟨leadMark, leadSpace, bits, trailMark⟩ rest).symm,
    ⟨hlmlo, hlmhi⟩, ⟨hlslo, hlshi⟩, hlen, hin, htrail⟩

/-- Settles O52: the frame is the one the samples begin with, and on it the poll ends as FINISH does. -/
theorem onlyFramesInWindowsSucceed : Obligations.OnlyFramesInWindowsSucceed := by
  intro s xs hp hv hvalid hok
  obtain ⟨d, rest, rfl, hd⟩ := frame_of_succeeded hp hv ⟨hvalid, hok⟩
  rw [pollOn_samples hp hd] at hok ⊢
  have hdata : dataAccepted s.params (d.data s.params) := by
    by_contra hrej
    rw [finishDecode_of_rejected (s := withData (d.data s.params) (beginDecode s)) hrej] at hok
    exact Bool.false_ne_true hok
  refine ⟨d, rest, rfl, hd, hdata, ?_⟩
  rw [finishDecode_of_accepted (s := withData (d.data s.params) (beginDecode s)) hdata]
  rfl

/-! ## Lines that carry no frame (R150, R162) -/

/-- Settles O54: the lead mark too short, the lead mark too long, the lead space too long. -/
theorem noiseAndStuckLinesFail : Obligations.NoiseAndStuckLinesFail := by
  intro s hp
  obtain ⟨⟨-, -, -, -, -, -, hlm, -⟩, -⟩ := id hp
  refine ⟨fun n hpos hn => ?_, ?_, fun n hn => ?_⟩
  · have short := EndsInto.leadMark.sampleAll_short (s := beginDecode s) hp hn (ys := [true]) rfl
    exact congrArg rspRegs ((pollOn_eq hp (head?_replicate_append hpos false _)).trans short)
  · have long := sampleAll_interval_long (s := beginDecode s) (i := .leadMark) hp nofun
      (Nat.lt_succ_self s.params.leadMark.hi) []
    rw [List.append_nil] at long
    exact congrArg rspRegs ((pollOn_eq hp rfl).trans long)
  · have next := EndsInto.leadMark.sampleAll_next (s := beginDecode s) hp hn.1 hn.2
      (ys := List.replicate (s.params.leadSpace.hi + 1) true) rfl
    have long := sampleAll_interval_long (s := beginDecode s) (i := .leadSpace) hp nofun
      (Nat.lt_succ_self s.params.leadSpace.hi) []
    rw [List.append_nil] at long
    exact congrArg rspRegs
      ((pollOn_eq hp (head?_replicate_append (pos_of_inWindow hlm hn) false _)).trans
        (next.trans long))

/-! ## What a poll forgets (R161) -/

/-- Two decodes in step: the same parameters, IRD registers and pulse, and the same response where there
is one. Without one the old `rsp_ok` and `rsp_cmd` still stand, which need not agree. -/
structure InStep (s t : State) : Prop where
  params   : s.params = t.params
  ird      : irdRegs s = irdRegs t
  valid    : s.rspValid = t.rspValid
  response : s.rspValid = true → rspRegs s = rspRegs t

theorem InStep.endDecode {s t : State} (h : InStep s t) (ok : Bool) (cmd : Byte) :
    InStep (endDecode ok cmd s) (endDecode ok cmd t) := by
  obtain ⟨-, htick, -, hshreg, hnrx⟩ := IrdRegs.mk.inj h.ird
  exact ⟨h.params, by simp [irdRegs, htick, hshreg, hnrx], rfl, fun _ => rfl⟩

/-- A verdict writes the same to both, and a response only where the decode ends. -/
theorem InStep.applyVerdict {s t : State} (h : InStep s t) (v : Verdict) :
    InStep (applyVerdict v s) (applyVerdict v t) := by
  obtain ⟨hist, htick, hdur, hshreg, hnrx⟩ := IrdRegs.mk.inj h.ird
  have goesOn {u w : State} (hu : u.params = s.params) (hw : w.params = t.params)
      (hur : rspRegs u = rspRegs s) (hwr : rspRegs w = rspRegs t) (hird : irdRegs u = irdRegs w) :
      InStep u w := by
    have huv : u.rspValid = s.rspValid := congrArg RspRegs.rspValid hur
    have hwv : w.rspValid = t.rspValid := congrArg RspRegs.rspValid hwr
    exact ⟨by rw [hu, hw, h.params], hird, by rw [huv, hwv, h.valid],
      fun hv => by rw [hur, hwr, h.response (huv ▸ hv)]⟩
  cases v with
  | goesOn => exact goesOn rfl rfl rfl rfl (by simp [Machine.applyVerdict, irdRegs, *])
  | abort c => exact h.endDecode false 0x00#8
  | leaveTo n =>
    exact goesOn rfl rfl rfl rfl (by simp [Machine.applyVerdict, irdRegs, *])
  | dataBit b =>
    exact goesOn rfl rfl rfl rfl (by simp [Machine.applyVerdict, receiveBit, irdRegs, *])
  | finish =>
    have same : InStep (finishDecode s) (Machine.endDecode (frameAccepted s.params s.shreg)
        (cmd1 s.shreg) t) := h.endDecode _ _
    rwa [h.params, hshreg] at same

/-- A sample keeps two decodes in step. -/
theorem InStep.takeSample {s t : State} (h : InStep s t) (x : Level) :
    InStep (takeSample x s) (takeSample x t) := by
  obtain ⟨hist, -, hdur, -, -⟩ := IrdRegs.mk.inj h.ird
  rw [Machine.takeSample, Machine.takeSample, h.params, hist, hdur]
  exact h.applyVerdict _

/-- So do any samples. -/
theorem InStep.sampleAll (xs : List Level) {s t : State} (h : InStep s t) :
    InStep (sampleAll xs s) (sampleAll xs t) := by
  induction xs generalizing s t with
  | nil => exact h
  | cons x xs ih =>
    have hist : s.ist = t.ist := congrArg IrdRegs.ist h.ird
    by_cases hi : s.ist = .idle
    · rwa [sampleAll_of_idle hi, sampleAll_of_idle (hist ▸ hi)]
    · rw [sampleAll_cons hi, sampleAll_cons (hist ▸ hi)]
      exact ih (h.takeSample x)

/-- Settles O53: the two polls begin in step, whatever the registers held. -/
theorem pollForgetsEarlierPolls : Obligations.PollForgetsEarlierPolls := by
  intro s t xs hp hs ht
  have begins : InStep (beginDecode s) (beginDecode t) :=
    ⟨hp.symm, by simp [irdRegs, hp], hs.trans ht.symm,
      fun h => absurd (hs.symm.trans h) Bool.false_ne_true⟩
  have ends := begins.sampleAll xs
  exact ⟨ends.ird, ends.valid, ends.response⟩

end Sys2Proof.Machine
end

section
/-! PROOFS of the remote decoder family, cycles. A poll in the block is a poll on the levels of its sample
instants (R142, R144), and it ends within `K_MAX` of them (R160). -/

namespace Sys2Proof.Machine

/-! ## A stream of samples, one more at a time -/

/-- No sample writes the parameters. -/
@[simp] theorem sampleAll_params (xs : List Level) (s : State) :
    (sampleAll xs s).params = s.params := by
  induction xs generalizing s with
  | nil => rfl
  | cons x xs ih =>
    by_cases hi : s.ist = .idle
    · rw [sampleAll_of_idle hi]
    · rw [sampleAll_cons hi, ih, takeSample_params]

/-- Over any samples a decode ends with a response, or goes on and leaves the response registers. -/
theorem sampleAll_response (xs : List Level) {s : State} (hi : s.ist ≠ .idle) :
    ((sampleAll xs s).ist = .idle ∧ (sampleAll xs s).rspValid = true) ∨
    ((sampleAll xs s).ist ≠ .idle ∧ rspRegs (sampleAll xs s) = rspRegs s) := by
  induction xs generalizing s with
  | nil => exact .inr ⟨hi, rfl⟩
  | cons x xs ih =>
    rw [sampleAll_cons hi]
    obtain ⟨hidle, ok, hrsp⟩ | ⟨hbusy, hrsp⟩ := takeSample_response x hi
    · rw [sampleAll_of_idle hidle]
      exact .inl ⟨hidle, congrArg RspRegs.rspValid hrsp⟩
    · rw [← hrsp]
      exact ih hbusy

theorem sampleAll_concat {s : State} {xs : List Level} (h : (sampleAll xs s).ist ≠ .idle)
    (x : Level) : sampleAll (xs ++ [x]) s = takeSample x (sampleAll xs s) := by
  rw [sampleAll_append, sampleAll_cons h, sampleAll_nil]

/-- The poll that fires in this cycle, on the samples of its first `k + 1` instants. -/
def pollAt (k : Nat) (s : State) : State := pollOn s.clearPulse (tickSamples k s)

/-- A poll of an asserted line decodes the `k` samples after its first. -/
theorem pollAt_eq {s : State} (hx : s.pins.irIn = false) (k : Nat) :
    ∃ xs, xs.length = k ∧ tickSamples k s = false :: xs ∧
      pollAt k s = sampleAll xs (beginDecode s.clearPulse) := by
  have low : tickSamples k s = false :: (tickSamples k s).tail := by
    rw [← hx, tickSamples, List.range_succ_eq_map, List.map_cons, List.tail_cons, Nat.zero_mul]
    rfl
  exact ⟨_, by simp [tickSamples], low, by rw [pollAt, low, pollOn_low, List.tail_cons]⟩

theorem pollAt_zero {s : State} (hx : s.pins.irIn = false) :
    pollAt 0 s = beginDecode s.clearPulse := by
  obtain ⟨xs, hlen, -, h⟩ := pollAt_eq hx 0
  rw [h, List.length_eq_zero_iff.mp hlen, sampleAll_nil]

theorem pollAt_succ {s : State} (hx : s.pins.irIn = false) {k : Nat}
    (hbusy : (pollAt k s).ist ≠ .idle) :
    pollAt (k + 1) s =
      takeSample ((inputs s).getD ((k + 1) * s.params.tickDiv) s.pins).irIn (pollAt k s) := by
  obtain ⟨xs, -, hxs, h⟩ := pollAt_eq hx k
  rw [h] at hbusy ⊢
  rw [pollAt, tickSamples_succ, hxs, List.cons_append, pollOn_low, sampleAll_concat hbusy]

theorem pollAt_params {s : State} (hx : s.pins.irIn = false) (k : Nat) :
    (pollAt k s).params = s.params := by
  obtain ⟨xs, -, -, h⟩ := pollAt_eq hx k
  rw [h, sampleAll_params, beginDecode_params, clearPulse_params]

/-- The pulse of a poll is there exactly when the poll has ended (R36). -/
theorem pollAt_rspValid {s : State} (hx : s.pins.irIn = false) (k : Nat) :
    (pollAt k s).rspValid = true ↔ (pollAt k s).ist = .idle := by
  obtain ⟨xs, -, -, h⟩ := pollAt_eq hx k
  rw [h]
  obtain ⟨hidle, hvalid⟩ | ⟨hbusy, hrsp⟩ :=
    sampleAll_response xs (s := beginDecode s.clearPulse) nofun
  · exact iff_of_true hvalid hidle
  · have hvalid : (sampleAll xs (beginDecode s.clearPulse)).rspValid = false :=
      congrArg RspRegs.rspValid hrsp
    exact iff_of_false (by simp [hvalid]) hbusy

/-! ## The cycles between samples (R144) -/

/-- The inputs known after a cycle are those known before it but the first. -/
theorem inputs_endCycle {s u : State} (hf : u.feed = s.feed) (hk : 1 < (inputs s).length) :
    inputs (endCycle u) = (inputs s).drop 1 := by
  cases hfeed : s.feed with
  | nil => simp [inputs, hfeed] at hk
  | cons p ps =>
    obtain ⟨hpins, hrest⟩ := endCycle_pins_cons (hf.trans hfeed)
    simp [inputs, hpins, hrest, hfeed]

theorem resetFree_length {n : Nat} {s : State} (h : resetFree n s = true) :
    n ≤ (inputs s).length := by
  simp only [resetFree, Bool.and_eq_true, decide_eq_true_eq] at h
  exact h.1

/-- Inputs known and without reset over `m + n` cycles are so over the last `n` of them. -/
theorem resetFree_drop {m n : Nat} {s t : State} (h : resetFree (m + n) s = true)
    (ht : inputs t = (inputs s).drop m) : resetFree n t = true := by
  have hlen := resetFree_length h
  simp only [resetFree, Bool.and_eq_true, decide_eq_true_eq, ht, List.length_drop] at h ⊢
  refine ⟨by omega, ?_⟩
  rw [List.take_drop]
  rw [List.all_eq_true] at h ⊢
  exact fun p hp => h.2 p (List.mem_of_mem_drop hp)

/-- In the cycle after sample `k` of the poll that fires at `s`: the decode is that of the poll on its
samples, the prescaler is loaded, and the inputs still known, if any, are those not yet used. -/
structure AfterSample (k : Nat) (s t : State) : Prop where
  runs   : runCycles (k * s.params.tickDiv + 1) s = .next t
  same   : SameDecode t (pollAt k s)
  loaded : t.tick = s.params.tickDiv - 1
  inputs : resetFree (k * s.params.tickDiv + 1 + 1) s = true →
    inputs t = (inputs s).drop (k * s.params.tickDiv + 1)

/-- The fire cycle takes sample 0. -/
theorem afterSample_zero {s : State} (hp : meetsRules s.params) (ha : accepts .irpoll s)
    (hx : s.pins.irIn = false) : ∃ t, AfterSample 0 s t := by
  refine ⟨endCycle (beginDecode s.clearPulse), ?_, ?_, by simp, ?_⟩
  · rw [Nat.zero_mul, runCycles, step_of_poll_low hp ha hx]
    rfl
  · rw [pollAt_zero hx]
    constructor <;> simp
  · rw [Nat.zero_mul]
    exact fun hr => inputs_endCycle rfl (resetFree_length hr)

/-- The level `c + 1` cycles on, read from the inputs not yet used. -/
theorem getD_inputs_of_drop {m c : Nat} {s t : State} (ht : inputs t = (inputs s).drop m)
    (hlen : m + c < (inputs s).length) :
    (inputs t).getD c t.pins = (inputs s).getD (m + c) s.pins := by
  rw [ht, List.getD_eq_getElem _ _ (by rw [List.length_drop]; omega), List.getElem_drop,
    List.getD_eq_getElem _ _ hlen]

/-- `TICK_DIV` cycles later the next sample has been taken. -/
theorem AfterSample.next {k : Nat} {s t : State} (hp : meetsRules s.params)
    (hx : s.pins.irIn = false) (h : AfterSample k s t)
    (hr : resetFree ((k + 1) * s.params.tickDiv + 1) s = true)
    (hbusy : (pollAt k s).ist ≠ .idle) : ∃ u, AfterSample (k + 1) s u := by
  obtain ⟨⟨-, -, -, -, -, htick, -⟩, -⟩ := id hp
  obtain ⟨c, hc⟩ := Nat.exists_eq_add_of_le' htick
  obtain ⟨hruns, hsame, hloaded, hinputs⟩ := h
  have instant : (k + 1) * s.params.tickDiv = k * s.params.tickDiv + 1 + c := by
    rw [Nat.succ_mul, hc]; omega
  rw [instant] at hr
  have hin := hinputs (resetFree_mono (by omega) hr)
  have hparams := hsame.params.trans (pollAt_params hx k)
  have noPulse : t.rspValid = false := by
    rw [hsame.rspValid, Bool.eq_false_iff]
    exact mt (pollAt_rspValid hx k).mp hbusy
  obtain ⟨n, known, hmore⟩ : ∃ n, resetFree (c + 1 + n) t = true ∧
      (resetFree ((k + 1) * s.params.tickDiv + 1 + 1) s = true → 1 ≤ n) := by
    by_cases hr' : resetFree ((k + 1) * s.params.tickDiv + 1 + 1) s = true
    · exact ⟨1, resetFree_drop (by rwa [instant] at hr') hin, fun _ => le_rfl⟩
    · exact ⟨0, resetFree_drop hr hin, fun h => absurd h hr'⟩
  obtain ⟨u, hu, husame, hutick, huin⟩ := tickRun c (hparams ▸ hp) (hsame.ist ▸ hbusy) noPulse
    (by omega) n known
  rw [getD_inputs_of_drop hin (resetFree_length hr), ← instant] at husame
  refine ⟨u, ?_, ?_, hutick.trans (by rw [hparams]), fun hr' => ?_⟩
  · rw [instant, Nat.add_assoc, runCycles_add (c + 1) hruns, hu]
  · rw [pollAt_succ hx hbusy]
    exact husame.trans (hsame.takeSample _)
  · rw [huin (hmore hr'), hin, List.drop_drop, instant, Nat.add_assoc _ c 1]

/-- As long as the decode on the samples before has not ended, the block follows the poll. -/
theorem exists_afterSample {s : State} (hp : meetsRules s.params) (ha : accepts .irpoll s)
    (hx : s.pins.irIn = false) (k : Nat) (hr : resetFree (k * s.params.tickDiv + 1) s = true)
    (hbusy : ∀ j < k, (pollAt j s).ist ≠ .idle) : ∃ t, AfterSample k s t := by
  induction k with
  | zero => exact afterSample_zero hp ha hx
  | succ k ih =>
    have hfewer : k * s.params.tickDiv + 1 ≤ (k + 1) * s.params.tickDiv + 1 :=
      Nat.succ_le_succ (Nat.mul_le_mul_right _ k.le_succ)
    obtain ⟨t, ht⟩ := ih (resetFree_mono hfewer hr) fun j hj => hbusy j (hj.trans k.lt_succ_self)
    exact ht.next hp hx hr (hbusy k k.lt_succ_self)

/-- Settles O49, by induction on the samples. -/
theorem pollSeesTheTickSamples : Obligations.PollSeesTheTickSamples := by
  intro k s hs ha hx hr hbusy
  obtain ⟨t, ht⟩ := exists_afterSample hs.rules ha hx k hr hbusy
  exact ⟨t, ht.runs, ht.same.ist, ht.same.dur, ht.same.shreg, ht.same.nrx, ht.same.rspRegs_eq⟩

/-! ## The bound (R160) -/

/-- The most samples the intervals after the interval `i` can take, when `n` bits have been received. -/
def samplesAfter (p : Params) (n : Nat) : IrState → Nat
  | .idle | .trailMark => 0
  | .leadMark  => p.leadSpace.hi + (32 * (p.bitMark.hi + p.oneSpace.hi) + p.bitMark.hi)
  | .leadSpace => 32 * (p.bitMark.hi + p.oneSpace.hi) + p.bitMark.hi
  | .bitMark   => p.oneSpace.hi + ((31 - n) * (p.bitMark.hi + p.oneSpace.hi) + p.bitMark.hi)
  | .bitSpace  => (31 - n) * (p.bitMark.hi + p.oneSpace.hi) + p.bitMark.hi

/-- The most samples a decode can still take: those up to the limit of its interval, the one that ends
it, and those of the intervals after. -/
def samplesLeft (s : State) : Nat :=
  if s.ist = .idle then 0
  else (limitOf s.params s.ist - s.dur.toNat) + 1 + samplesAfter s.params s.nrx.toNat s.ist

theorem samplesLeft_of_idle {s : State} (hi : s.ist = .idle) : samplesLeft s = 0 := if_pos hi

theorem samplesLeft_of_busy {s : State} (hi : s.ist ≠ .idle) :
    samplesLeft s =
      (limitOf s.params s.ist - s.dur.toNat) + 1 + samplesAfter s.params s.nrx.toNat s.ist :=
  if_neg hi

/-- The next interval with its limit takes no more than was counted after this one. -/
theorem EndsInto.limitOf_add_samplesAfter_le {p : Params} {i n : IrState} {lo : Nat}
    (h : EndsInto p i lo n) (k : Nat) :
    limitOf p n + samplesAfter p k n ≤ samplesAfter p k i := by
  cases h with
  | leadMark => exact le_rfl
  | leadSpace =>
    have fewer : (31 - k) * (p.bitMark.hi + p.oneSpace.hi) ≤ 31 * (p.bitMark.hi + p.oneSpace.hi) :=
      Nat.mul_le_mul_right _ (Nat.sub_le 31 k)
    simp only [limitOf, samplesAfter]
    omega
  | bitMark => exact le_rfl

/-- So does the mark after a bit. -/
theorem limitOf_add_samplesAfter_markAfter_le {s : State} (hroom : s.nrx.toNat < 32) (b : Bool) :
    limitOf s.params (markAfter (withBit b s)) +
        samplesAfter s.params (s.nrx + 1#6).toNat (markAfter (withBit b s)) ≤
      samplesAfter s.params s.nrx.toNat .bitSpace := by
  have hnext : (s.nrx + 1#6).toNat = s.nrx.toNat + 1 := by bv_omega
  by_cases hfull : s.nrx + 1#6 = 32#6
  · rw [show markAfter (withBit b s) = .trailMark from if_pos hfull]
    exact Nat.le_add_left _ _
  · obtain ⟨k, hk⟩ : ∃ k, 31 - s.nrx.toNat = k + 1 := by
      have : s.nrx.toNat ≠ 31 := fun h => hfull (by bv_omega)
      exact ⟨30 - s.nrx.toNat, by omega⟩
    rw [show markAfter (withBit b s) = .bitMark from if_neg hfull]
    simp only [limitOf, samplesAfter, hnext, hk, show 31 - (s.nrx.toNat + 1) = k by omega]
    rw [Nat.succ_mul]
    omega

/-- A new interval has its whole limit left, its first sample counted. -/
theorem samplesLeft_enterInterval {s : State} {n : IrState} (hp : meetsRules s.params)
    (hn : n ≠ .idle) :
    samplesLeft (enterInterval n s) = limitOf s.params n + samplesAfter s.params s.nrx.toNat n := by
  have hpos := limitOf_pos hp hn
  rw [samplesLeft_of_busy (s := enterInterval n s) hn]
  simp only [enterInterval_params, enterInterval_ist, enterInterval_nrx, enterInterval_dur]
  rw [show (1#8).toNat = 1 from rfl, Nat.sub_add_cancel hpos]

/-- Every sample brings a decode closer to its end. -/
theorem samplesLeft_takeSample (x : Level) {s : State} (hp : meetsRules s.params)
    (hi : s.ist ≠ .idle) (h : IrdMeasuring (irdRegs s)) :
    samplesLeft (takeSample x s) < samplesLeft s := by
  rw [samplesLeft_of_busy hi]
  obtain he | ⟨hlt, he⟩ | ⟨lo, n, hends, he⟩ | ⟨hbit, b, he⟩ | he := takeSample_outcomes x hi <;>
    rw [he]
  · rw [samplesLeft_of_idle (s := abortDecode s) rfl]
    omega
  · have hlimit := limitOf_le hp s.ist
    have hnext : (s.dur + 1#8).toNat = s.dur.toNat + 1 := by bv_omega
    rw [samplesLeft_of_busy (s := { s with dur := s.dur + 1#8 }) hi]
    simp only [hnext]
    omega
  · have := hends.limitOf_add_samplesAfter_le s.nrx.toNat
    rw [samplesLeft_enterInterval hp hends.ne_idle.2]
    omega
  · have hroom : s.nrx.toNat < 32 := h.nrx_lt (by simp [irdRegs, hbit])
    have := limitOf_add_samplesAfter_markAfter_le hroom b
    rw [receiveBit_eq, samplesLeft_enterInterval (s := withBit b s) hp (markAfter_ne_idle _), hbit]
    exact Nat.lt_of_le_of_lt this (by omega)
  · rw [samplesLeft_of_idle (s := finishDecode s) rfl]
    omega

/-- A decode has ended once as many samples are taken as it can still take. -/
theorem sampleAll_ends (xs : List Level) {s : State} (hp : meetsRules s.params)
    (h : IrdOk s.params (irdRegs s)) (hlen : samplesLeft s ≤ xs.length) :
    (sampleAll xs s).ist = .idle := by
  induction xs generalizing s with
  | nil =>
    rw [sampleAll_nil]
    by_contra hi
    rw [samplesLeft_of_busy hi, List.length_nil] at hlen
    omega
  | cons x xs ih =>
    cases h with
    | idle hi => rwa [sampleAll_of_idle hi]
    | measuring hi hm htick =>
      have hfewer := samplesLeft_takeSample x hp hi hm
      rw [List.length_cons] at hlen
      rw [sampleAll_cons hi]
      exact ih (by rwa [takeSample_params])
        (by rw [takeSample_params]; exact irdOk_takeSample x hp hi hm htick) (by omega)

/-- The decode of a poll can take `K_MAX` samples after its first (R160). -/
theorem samplesLeft_beginDecode {s : State} (hp : meetsRules s.params) :
    samplesLeft (beginDecode s) = maxPollSamples s.params := by
  have h := samplesLeft_enterInterval (s := beginDecode s) (n := .leadMark) hp nofun
  rw [show samplesLeft (beginDecode s) = _ from h]
  simp only [beginDecode_params, limitOf, samplesAfter, maxPollSamples]
  omega

theorem irdOk_beginDecode (s : State) : IrdOk s.params (irdRegs (beginDecode s)) :=
  irdOk_of_interval (r := irdRegs (beginDecode s)) IrState.noConfusion rfl (Nat.zero_le 32)
    (fun hfull => absurd hfull (show 0#6 ≠ 32#6 by decide)) le_rfl

/-- The poll has ended at sample `K_MAX`. -/
theorem pollAt_ends {s : State} (hp : meetsRules s.params) (hx : s.pins.irIn = false) :
    (pollAt (maxPollSamples s.params) s).ist = .idle := by
  obtain ⟨xs, hlen, -, h⟩ := pollAt_eq hx (maxPollSamples s.params)
  rw [h]
  exact sampleAll_ends xs (s := beginDecode s.clearPulse) hp (irdOk_beginDecode _)
    ((samplesLeft_beginDecode (s := s.clearPulse) hp).trans hlen.symm).le

/-- Settles O50: the response of an idle line comes at once, that of a decode after the first sample at
which the poll on the samples has ended. -/
theorem everyPollEndsInBoundedTime : Obligations.EveryPollEndsInBoundedTime := by
  intro s hs ha hr
  cases hx : s.pins.irIn with
  | true =>
    refine ⟨1, le_rfl, Nat.le_add_left _ _, endCycle (State.respond false 0x00#8 s.clearPulse), ?_,
      by simp⟩
    rw [runCycles, step_of_poll_high hs.rules ha hx]
    rfl
  | false =>
    have ends : ∃ k, (pollAt k s).ist = .idle := ⟨_, pollAt_ends hs.rules hx⟩
    have hk : Nat.find ends ≤ maxPollSamples s.params :=
      Nat.find_min' ends (pollAt_ends hs.rules hx)
    have hbound : Nat.find ends * s.params.tickDiv + 1 ≤
        maxPollSamples s.params * s.params.tickDiv + 1 :=
      Nat.succ_le_succ (Nat.mul_le_mul_right _ hk)
    obtain ⟨t, ht⟩ := exists_afterSample hs.rules ha hx (Nat.find ends) (resetFree_mono hbound hr)
      fun j hj => Nat.find_min ends hj
    exact ⟨_, Nat.le_add_left _ _, hbound, t, ht.runs,
      ht.same.rspValid.trans ((pollAt_rspValid hx _).mpr (Nat.find_spec ends))⟩

end Sys2Proof.Machine
end

section
/-! PROOFS of the power controller family. The clearing of the string (R184); what the host does in a
cycle, place by place: its loop (R180, R181, R188, R212), a decoded command (R182, R183), STANDBY
(R184 to R186). -/

namespace Sys2Proof.Machine

/-! ## The CLEAR commands of a string -/

theorem clearCommands_of_le {cw : CntWidth} {n : Nat} (h : n ≤ 2 ^ cw.bits - 1) :
    clearCommands cw n = [.clear n] :=
  if_pos h

theorem clearCommands_of_lt {cw : CntWidth} {n : Nat} (h : 2 ^ cw.bits - 1 < n) :
    clearCommands cw n =
      List.replicate (n / (2 ^ cw.bits - 1)) (.clear (2 ^ cw.bits - 1)) ++
        [.clear (n % (2 ^ cw.bits - 1))] :=
  if_neg (Nat.not_le.mpr h)

/-- The greatest count of a CLEAR (R74). -/
theorem maxClear_pos (cw : CntWidth) : 0 < 2 ^ cw.bits - 1 := by
  cases cw <;> decide

/-- Every command of the list is a CLEAR of at most the greatest count. -/
theorem mem_clearCommands {cw : CntWidth} {n : Nat} {i : Instr} (hi : i ∈ clearCommands cw n) :
    ∃ m ≤ 2 ^ cw.bits - 1, i = .clear m := by
  obtain hn | hn := le_or_gt n (2 ^ cw.bits - 1)
  · rw [clearCommands_of_le hn, List.mem_singleton] at hi
    exact ⟨n, hn, hi⟩
  · rw [clearCommands_of_lt hn, List.mem_append, List.mem_replicate, List.mem_singleton] at hi
    obtain ⟨-, hi⟩ | hi := hi
    · exact ⟨_, le_rfl, hi⟩
    · exact ⟨_, (Nat.mod_lt n (maxClear_pos cw)).le, hi⟩

theorem wellFormed_clear_of_le {cw : CntWidth} {m : Nat} (h : m ≤ 2 ^ cw.bits - 1) :
    wellFormed cw (.clear m) = true :=
  decide_eq_true (Nat.lt_of_le_pred (Nat.two_pow_pos cw.bits) h)

/-- The counts of the list add up to the string: quotient times divisor plus remainder. -/
theorem sum_map_clearCommands (cw : CntWidth) (n : Nat) {count : Instr → Nat}
    (hcount : ∀ m, count (.clear m) = m) : ((clearCommands cw n).map count).sum = n := by
  obtain hn | hn := le_or_gt n (2 ^ cw.bits - 1)
  · simp [clearCommands_of_le hn, hcount]
  · simp [clearCommands_of_lt hn, hcount, Nat.div_add_mod']

/-- Settles O57, by whether one CLEAR is enough for the string. -/
theorem clearCommandsCoverTheString : Obligations.ClearCommandsCoverTheString := by
  intro cw n
  refine ⟨fun i hi => ?_, sum_map_clearCommands cw n fun _ => rfl⟩
  obtain ⟨m, hm, rfl⟩ := mem_clearCommands hi
  exact ⟨wellFormed_clear_of_le hm, m, rfl⟩

/-! ## The host's next command -/

/-- The state of R180 is a matter of the place. -/
theorem mode_of_place {h : HostState} {q : HostPlace} (e : h.place = q) : h.mode = q.mode :=
  congrArg HostPlace.mode e

theorem nextCommand_of_issuing {i : Instr} {rest : List Instr} {goal : HostGoal} {inFrame : Bool}
    {h : HostState} (e : h.place = .issuing (i :: rest) goal inFrame) :
    nextCommand h = some (i, .issuing rest goal (inFrame || transmits i)) := by
  simp [nextCommand, e]

theorem nextCommand_of_slice {polled : Bool} {h : HostState} (e : h.place = .slice polled) :
    nextCommand h = some (.irpoll, .polling .active) := by
  simp [nextCommand, e]

theorem nextCommand_of_woken {h : HostState} (e : h.place = .woken) :
    nextCommand h = some (.irpoll, .polling .standby) := by
  simp [nextCommand, e]

theorem nextCommand_of_waiting {h : HostState} (e : h.place = .waiting) : nextCommand h = none := by
  simp [nextCommand, e]

/-- What the host issues is a matter of its place, not of its variables. -/
theorem nextCommand_congr {h h' : HostState} (e : h'.place = h.place) :
    nextCommand h' = nextCommand h := by
  simp [nextCommand, e]

/-- A command that is issued leaves the host in the same state of R180, and does not reset the block. -/
theorem nextCommand_place {h : HostState} {i : Instr} {q : HostPlace}
    (e : nextCommand h = some (i, q)) : q.mode = h.mode ∧ q ≠ .resetting := by
  unfold nextCommand at e
  split at e
  · next _ _ goal _ hp =>
    cases e
    rw [mode_of_place hp]
    cases goal <;> simp [HostPlace.mode]
  · next hp => cases e; simp [mode_of_place hp, HostPlace.mode]
  · next hp => cases e; simp [mode_of_place hp, HostPlace.mode]
  all_goals cases e

theorem mustAct_of_issuing {p : Params} {i : Instr} {rest : List Instr} {goal : HostGoal}
    {h : HostState} (e : h.place = .issuing (i :: rest) goal true) (ht : transmits i = true)
    (hidle : maxLatency p ≤ h.idle) : mustAct p h = true := by
  simp [mustAct, e, ht, hidle]

theorem mustAct_of_slice {p : Params} {polled : Bool} {h : HostState} (e : h.place = .slice polled)
    (hidle : maxPollDelay p ≤ h.idle) : mustAct p h = true := by
  simp [mustAct, e, hidle]

/-! ## Issuing -/

section
variable {p : Params} {c : HostChoice} {o : Outputs} {h : HostState} {i : Instr} {q : HostPlace}

theorem hostIssue_of_none (e : nextCommand h = none) :
    hostIssue p c o h = { host := h, rst := false, command := none } := by
  simp [hostIssue, e]

theorem hostIssue_of_not_ready (hr : o.cmdReady = false) :
    hostIssue p c o h = { host := h, rst := false, command := none } := by
  cases hn : nextCommand h <;> simp [hostIssue, hn, hr]

theorem hostIssue_of_acts (e : nextCommand h = some (i, q)) (hr : o.cmdReady = true)
    (ha : c.acts = true ∨ mustAct p h = true) :
    hostIssue p c o h = { host := goTo q h, rst := false, command := some i } := by
  simp [hostIssue, e, hr, ha]

/-- A host that lets a ready cycle pass with a command to issue only counts it. -/
theorem hostIssue_of_command_none (e : nextCommand h = some (i, q)) (hr : o.cmdReady = true)
    (hc : (hostIssue p c o h).command = none) :
    (hostIssue p c o h).host = { h with idle := h.idle + 1 } := by
  by_cases ha : c.acts = true ∨ mustAct p h = true
  · simp [hostIssue_of_acts e hr ha] at hc
  · simp [hostIssue, e, hr, ha]

/-- The host issues its next command and goes on, or issues nothing and stays. -/
theorem hostIssue_command_or_stays (e : nextCommand h = some (i, q)) :
    (hostIssue p c o h).command = some i ∧ (hostIssue p c o h).host.place = q ∨
    (hostIssue p c o h).command = none ∧ (hostIssue p c o h).host.place = h.place := by
  obtain ⟨n, hi⟩ | ⟨i', q', e', -, hi⟩ := hostIssue_cases p c o h
  · exact .inr (by simp [hi])
  · obtain ⟨rfl, rfl⟩ := Prod.mk.inj (Option.some.inj (e.symm.trans e'))
    exact .inl (by simp [hi])

@[simp] theorem hostIssue_rst : (hostIssue p c o h).rst = false := by
  obtain ⟨n, hi⟩ | ⟨i, q, -, -, hi⟩ := hostIssue_cases p c o h <;> rw [hi]

/-- Issuing does not bring the reset back. -/
theorem hostIssue_place_ne_resetting (e : h.place ≠ .resetting) :
    (hostIssue p c o h).host.place ≠ .resetting := by
  obtain ⟨n, hi⟩ | ⟨i, q, hn, -, hi⟩ := hostIssue_cases p c o h <;> rw [hi]
  · exact e
  · exact (nextCommand_place hn).2

/-- Issuing a command does not change the state of R180. -/
@[simp] theorem hostIssue_mode : (hostIssue p c o h).host.mode = h.mode := by
  obtain ⟨n, hi⟩ | ⟨i, q, hn, -, hi⟩ := hostIssue_cases p c o h <;> rw [hi]
  · rfl
  · exact (nextCommand_place hn).1

end

/-! ## Observing and turning -/

section
variable {hp : HostParams} {p : Params} {cw : CntWidth} {c : HostChoice} {o : Outputs} {h : HostState}

theorem hostObserve_of_commandsDone {goal : HostGoal} {inFrame : Bool}
    (e : h.place = .issuing [] goal inFrame) (hr : o.cmdReady = true) :
    hostObserve hp cw o h = reachGoal hp goal h := by
  simp [hostObserve, e, hr]

theorem hostObserve_of_polling {mode : HostMode} (e : h.place = .polling mode)
    (hr : o.cmdReady = true) :
    hostObserve hp cw o h = endPoll hp cw mode o.rspOk o.rspCmd h := by
  simp [hostObserve, e, hr]

/-- The host awaits the end of its commands or of its poll (R219, R224). -/
theorem hostObserve_of_not_ready (e : h.place ≠ .waiting) (hr : o.cmdReady = false) :
    hostObserve hp cw o h = h := by
  unfold hostObserve
  split
  · simp [hr]
  · simp [hr]
  · next hp => exact absurd hp e
  all_goals rfl

theorem hostObserve_of_waiting_wake (e : h.place = .waiting) (hw : o.wake = true) :
    hostObserve hp cw o h = goTo .woken h := by
  simp [hostObserve, e, hw]

theorem hostObserve_of_waiting_no_wake (e : h.place = .waiting) (hw : o.wake = false) :
    hostObserve hp cw o h = h := by
  simp [hostObserve, e, hw]

/-- All that reading the outputs can do: nothing, or the end of commands, of a poll, of the wait. -/
theorem hostObserve_cases (hp : HostParams) (cw : CntWidth) (o : Outputs) (h : HostState) :
    hostObserve hp cw o h = h ∨
    (∃ goal inFrame, h.place = .issuing [] goal inFrame ∧ hostObserve hp cw o h = reachGoal hp goal h) ∨
    (∃ mode, h.place = .polling mode ∧ o.cmdReady = true ∧
      hostObserve hp cw o h = endPoll hp cw mode o.rspOk o.rspCmd h) ∨
    hostObserve hp cw o h = goTo .woken h := by
  by_cases hw : h.place = .waiting
  · cases hwake : o.wake with
    | true => exact .inr (.inr (.inr (hostObserve_of_waiting_wake hw hwake)))
    | false => exact .inl (hostObserve_of_waiting_no_wake hw hwake)
  cases hr : o.cmdReady with
  | false => exact .inl (hostObserve_of_not_ready hw hr)
  | true =>
    cases e : h.place with
    | issuing todo goal inFrame =>
      cases todo with
      | nil => exact .inr (.inl ⟨goal, inFrame, rfl, hostObserve_of_commandsDone e hr⟩)
      | cons i rest => exact .inl (hostObserve_of_next (by simp [nextCommand_of_issuing e]))
    | polling mode => exact .inr (.inr (.inl ⟨mode, rfl, rfl, hostObserve_of_polling e hr⟩))
    | slice polled => exact .inl (hostObserve_of_next (by simp [nextCommand_of_slice e]))
    | woken => exact .inl (hostObserve_of_next (by simp [nextCommand_of_woken e]))
    | resetting => exact .inl (by simp [hostObserve, e])
    | waiting => exact absurd e hw

theorem reachGoal_place_ne_resetting (goal : HostGoal) :
    (reachGoal hp goal h).place ≠ .resetting := by
  cases goal <;> simp [reachGoal, beginIteration]

/-- A decoded command moves the host by the power command only (R182, R184). -/
theorem applyCommand_place (hp : HostParams) (cw : CntWidth) (cmd : Byte) (h : HostState) :
    applyCommand hp cw cmd h = enterStandby hp cw h ∨
      (applyCommand hp cw cmd h).place = h.place := by
  unfold applyCommand
  split
  · exact .inl rfl
  · right
    split_ifs <;> rfl

theorem endPoll_place_ne_resetting (mode : HostMode) (ok : Bool) (cmd : Byte) :
    (endPoll hp cw mode ok cmd h).place ≠ .resetting := by
  cases mode with
  | active =>
    cases ok with
    | false => simp [endPoll]
    | true =>
      obtain ha | ha := applyCommand_place hp cw cmd (goTo (.slice true) h) <;>
        simp [endPoll, ha, enterStandby]
  | standby => unfold endPoll; split_ifs <;> simp [beginIteration]

theorem hostObserve_place_ne_resetting (e : h.place ≠ .resetting) :
    (hostObserve hp cw o h).place ≠ .resetting := by
  obtain ho | ⟨goal, -, -, ho⟩ | ⟨mode, -, -, ho⟩ | ho := hostObserve_cases hp cw o h <;> rw [ho]
  · exact e
  · exact reachGoal_place_ne_resetting goal
  · exact endPoll_place_ne_resetting mode o.rspOk o.rspCmd
  · simp

theorem hostTurn_of_sliceOver (e : h.place = .slice true) (hs : hp.pollSlice ≤ h.spent) :
    hostTurn hp h = beginIteration hp h := by
  simp [hostTurn, e, hs]

/-- The poll slice goes on until `POLL_SLICE` is spent (R180). -/
theorem hostTurn_of_not_sliceOver (e : h.place ≠ .slice true ∨ h.spent < hp.pollSlice) :
    hostTurn hp h = h := by
  by_cases hs : h.place = .slice true
  · simp [hostTurn, hs, e.resolve_left (not_not_intro hs)]
  · exact hostTurn_of_ne hs

theorem hostTurn_place_ne_resetting (e : h.place ≠ .resetting) :
    (hostTurn hp h).place ≠ .resetting := by
  by_cases hs : h.place = .slice true ∧ hp.pollSlice ≤ h.spent
  · simp [hostTurn_of_sliceOver hs.1 hs.2, beginIteration]
  · rw [hostTurn_of_not_sliceOver (by rwa [← not_le, ← not_and_or])]
    exact e

/-! ## Whole cycles -/

theorem passTime_of_slice {polled : Bool} (e : h.place = .slice polled) :
    passTime h = { h with spent := h.spent + 1 } := by
  simp [passTime, e]

theorem passTime_of_polling (e : h.place = .polling .active) :
    passTime h = { h with spent := h.spent + 1 } := by
  simp [passTime, e]

/-- The cycle of a host with a command to issue, whose poll slice is not over, is its issuing. -/
theorem hostCycle_of_next (e : nextCommand h ≠ none)
    (ht : h.place ≠ .slice true ∨ (passTime h).spent < hp.pollSlice) :
    hostCycle hp p c o h = hostIssue p c o (passTime h) := by
  have running : h.place ≠ .resetting := fun hr => e (by simp [nextCommand, hr])
  rw [hostCycle_of_running running,
    hostObserve_of_next (by rwa [nextCommand_congr (passTime_place h)]),
    hostTurn_of_not_sliceOver (by rwa [passTime_place])]

theorem hostCycle_of_issuing {i : Instr} {rest : List Instr} {goal : HostGoal} {inFrame : Bool}
    (e : h.place = .issuing (i :: rest) goal inFrame) :
    hostCycle hp p c o h = hostIssue p c o h := by
  rw [hostCycle_of_next (by simp [nextCommand_of_issuing e]) (.inl (by simp [e]))]
  simp [passTime, e]

end

/-! ## A decoded command (R182, R183) -/

/-- Settles O59: the codes are distinct, so each test of `applyCommand` picks its own code. -/
theorem everyCodeHasItsOwnAction : Obligations.EveryCodeHasItsOwnAction := by
  intro hp cw h
  refine ⟨fun o e hr hok => ?_, fun hrules => ?_⟩
  · rw [hostObserve_of_polling e hr, hok]
    rfl
  · obtain ⟨bp, sp, sb, dp, db, ds⟩ := codes_ne hrules
    refine ⟨?_, ?_, ?_, ?_, fun cmd hcmd => ?_⟩
    · simp [applyCommand, enterStandby, goTo]
    · simp [applyCommand, bp]
    · simp [applyCommand, sp, sb]
    · simp [applyCommand, dp, db, ds]
    · simp only [List.mem_cons, List.not_mem_nil, or_false, not_or] at hcmd
      obtain ⟨np, nb, ns, nd⟩ := hcmd
      simp [applyCommand, np, nb, ns, nd]

/-! ## The loop (R180, R181, R188) -/

section
variable {hp : HostParams} {p : Params} {c : HostChoice} {o : Outputs} {h : HostState}

/-- Resetting the block: no command, and a LATCH to issue once it ends (R188, R212 (1), (5)). -/
theorem hostCycle_resets (e : h.place = .resetting) :
    (hostCycle hp p c o h).rst = true ∧ (hostCycle hp p c o h).command = none ∧
    (c.holdReset = true → (hostCycle hp p c o h).host = h) ∧
    (c.holdReset = false → (hostCycle hp p c o h).host.place = .issuing [.latch] .loop false) := by
  rw [hostCycle_of_resetting e]
  exact ⟨rfl, rfl, fun hc => by simp [hc], fun hc => by simp [hc]⟩

/-- After the reset the host does not reset the block again, and offers commands to a ready block only. -/
theorem hostCycle_runs (e : h.place ≠ .resetting) :
    (hostCycle hp p c o h).rst = false ∧ (hostCycle hp p c o h).host.place ≠ .resetting ∧
    (o.cmdReady = false → (hostCycle hp p c o h).command = none) := by
  rw [hostCycle_of_running e]
  refine ⟨hostIssue_rst, hostIssue_place_ne_resetting ?_, fun hr => by rw [hostIssue_of_not_ready hr]⟩
  exact hostTurn_place_ne_resetting (hostObserve_place_ne_resetting (by rwa [passTime_place]))

/-- The commands are issued in order, inside a frame within `L_MAX` (R218). -/
theorem hostCycle_issues {i : Instr} {rest : List Instr} {goal : HostGoal} {inFrame : Bool}
    (e : h.place = .issuing (i :: rest) goal inFrame) (hr : o.cmdReady = true) :
    (c.acts = true ∨ inFrame = true ∧ transmits i = true ∧ maxLatency p ≤ h.idle →
      (hostCycle hp p c o h).command = some i ∧
      (hostCycle hp p c o h).host.place = .issuing rest goal (inFrame || transmits i)) ∧
    ((hostCycle hp p c o h).command = none →
      (hostCycle hp p c o h).host = { h with idle := h.idle + 1 }) := by
  rw [hostCycle_of_issuing e]
  refine ⟨fun ha => ?_, hostIssue_of_command_none (nextCommand_of_issuing e) hr⟩
  have acts : c.acts = true ∨ mustAct p h = true := ha.imp_right fun ⟨hf, ht, hidle⟩ =>
    mustAct_of_issuing (by rw [e, hf]) ht hidle
  rw [hostIssue_of_acts (nextCommand_of_issuing e) hr acts]
  exact ⟨rfl, rfl⟩

/-- A poll slice that is not over polls, or stays; the delay of R222 is its limit. -/
theorem hostCycle_polls
    (e : h.place = .slice false ∨ h.place = .slice true ∧ h.spent + 1 < hp.pollSlice) :
    ((hostCycle hp p c o h).command = some .irpoll ∧
        (hostCycle hp p c o h).host.place = .polling .active ∨
      (hostCycle hp p c o h).command = none ∧ (hostCycle hp p c o h).host.place = h.place) ∧
    (o.cmdReady = true → c.acts = true ∨ maxPollDelay p ≤ h.idle →
      (hostCycle hp p c o h).command = some .irpoll) := by
  obtain ⟨polled, hs⟩ : ∃ polled, h.place = .slice polled := e.elim (⟨_, ·⟩) (⟨_, ·.1⟩)
  have notOver : h.place ≠ .slice true ∨ (passTime h).spent < hp.pollSlice := by
    rw [passTime_of_slice hs]
    exact e.imp (by simp [·]) (·.2)
  have slice : (passTime h).place = .slice polled := by rw [passTime_place, hs]
  have hnext := nextCommand_of_slice slice
  rw [hostCycle_of_next (by simp [nextCommand_of_slice hs]) notOver]
  refine ⟨?_, fun hr ha => ?_⟩
  · rw [← passTime_place h]
    exact hostIssue_command_or_stays hnext
  · have acts : c.acts = true ∨ mustAct p (passTime h) = true := ha.imp_right fun hidle =>
      mustAct_of_slice slice (by rwa [passTime_idle])
    rw [hostIssue_of_acts hnext hr acts]

end

/-- Settles O58, place by place. -/
theorem hostLoopRunsFrameThenPolls : Obligations.HostLoopRunsFrameThenPolls := by
  intro hp p c o h
  refine ⟨rfl, hostCycle_resets, fun e => ⟨hostCycle_of_running e, hostCycle_runs e⟩,
    fun i rest goal inFrame => hostCycle_issues, fun inFrame => hostObserve_of_commandsDone,
    fun inFrame => hostObserve_of_commandsDone, hostCycle_polls,
    fun m e => e.elim passTime_of_slice passTime_of_polling,
    fun e => hostObserve_of_not_ready (by simp [e]), fun e hr hok => ?_,
    hostTurn_of_sliceOver, hostTurn_of_not_sliceOver⟩
  rw [hostObserve_of_polling e hr, hok]
  rfl

/-! ## STANDBY (R184 to R186) -/

/-- The poll of STANDBY has ended with the power command: what leaves STANDBY (R186). -/
def powerHeard (hp : HostParams) (o : Outputs) (h : HostState) : Prop :=
  h.place = .polling .standby ∧ o.cmdReady = true ∧ o.rspOk = true ∧ o.rspCmd = hp.cmdPower

/-- The animation state: start, speed and density (R130). -/
def HostState.animation (h : HostState) : Nat × Nat × Nat := (h.start, h.speed, h.density)

@[simp] theorem beginIteration_animation (hp : HostParams) (h : HostState) :
    (beginIteration hp h).animation = h.animation := rfl

@[simp] theorem beginIteration_mode (hp : HostParams) (h : HostState) :
    (beginIteration hp h).mode = .active := rfl

section
variable {hp : HostParams} {p : Params} {cw : CntWidth} {c : HostChoice} {o : Outputs} {h : HostState}

@[simp] theorem hostIssue_animation : (hostIssue p c o h).host.animation = h.animation := by
  obtain ⟨n, hi⟩ | ⟨i, q, -, -, hi⟩ := hostIssue_cases p c o h <;> rw [hi] <;> rfl

theorem hostObserve_of_powerHeard (hh : powerHeard hp o h) :
    hostObserve hp cw o h = beginIteration hp h := by
  obtain ⟨e, hr, hok, hcmd⟩ := hh
  rw [hostObserve_of_polling e hr]
  simp [endPoll, hok, hcmd]

/-- A FAIL or another code in STANDBY: the host waits again (R186). -/
theorem hostObserve_of_otherResponse (e : h.place = .polling .standby) (hr : o.cmdReady = true)
    (hh : ¬ powerHeard hp o h) : hostObserve hp cw o h = goTo .waiting h := by
  have other : ¬ (o.rspOk && o.rspCmd == hp.cmdPower) = true := fun hc =>
    hh ⟨e, hr, by simpa using hc⟩
  rw [hostObserve_of_polling e hr, endPoll, if_neg other]

/-- Any other observation in STANDBY keeps the host in STANDBY, its variables as they are. -/
theorem hostObserve_of_not_powerHeard (hm : h.mode = .standby) (hh : ¬ powerHeard hp o h) :
    (hostObserve hp cw o h).mode = .standby ∧ (hostObserve hp cw o h).animation = h.animation := by
  obtain ho | ⟨goal, inFrame, e, ho⟩ | ⟨mode, e, hr, ho⟩ | ho := hostObserve_cases hp cw o h <;>
    rw [ho]
  · exact ⟨hm, rfl⟩
  · cases goal with
    | standby => exact ⟨rfl, rfl⟩
    | loop | polls => cases (mode_of_place e).symm.trans hm
  · cases mode with
    | active => cases (mode_of_place e).symm.trans hm
    | standby =>
      rw [← ho, hostObserve_of_otherResponse e hr hh]
      exact ⟨rfl, rfl⟩
  · exact ⟨rfl, rfl⟩

/-- In STANDBY no slice runs: a cycle observes and issues. -/
theorem hostCycle_of_standby (hm : h.mode = .standby) :
    hostCycle hp p c o h = hostIssue p c o (hostObserve hp p.cntW o h) := by
  have running : h.place ≠ .resetting := fun e => by cases (mode_of_place e).symm.trans hm
  have noTime : passTime h = h := by
    unfold passTime
    split
    · next e => cases (mode_of_place e).symm.trans hm
    · next e => cases (mode_of_place e).symm.trans hm
    all_goals rfl
  have noSlice : (hostObserve hp p.cntW o h).place ≠ .slice true := fun e => by
    by_cases hh : powerHeard hp o h
    · simp [hostObserve_of_powerHeard hh, beginIteration] at e
    · cases (mode_of_place e).symm.trans (hostObserve_of_not_powerHeard hm hh).1
  rw [hostCycle_of_running running, noTime, hostTurn_of_ne noSlice]

theorem hostCycle_mode_of_standby (hm : h.mode = .standby) :
    (hostCycle hp p c o h).host.mode = .active ↔ powerHeard hp o h := by
  rw [hostCycle_of_standby hm, hostIssue_mode]
  by_cases hh : powerHeard hp o h
  · simp [hostObserve_of_powerHeard hh, hh]
  · simp [(hostObserve_of_not_powerHeard (cw := p.cntW) hm hh).1, hh]

theorem hostCycle_animation_of_standby (hm : h.mode = .standby) :
    (hostCycle hp p c o h).host.animation = h.animation := by
  rw [hostCycle_of_standby hm, hostIssue_animation]
  by_cases hh : powerHeard hp o h
  · rw [hostObserve_of_powerHeard hh, beginIteration_animation]
  · exact (hostObserve_of_not_powerHeard hm hh).2

/-- A host that is done with the clear and its LATCH waits for them, then for `wake` (R184). -/
theorem hostCycle_of_cleared {inFrame : Bool} (e : h.place = .issuing [] .standby inFrame) :
    (hostCycle hp p c o h).command = none ∧
    (o.cmdReady = true → (hostCycle hp p c o h).host.place = .waiting) := by
  have hm : h.mode = .standby := mode_of_place e
  rw [hostCycle_of_standby hm]
  cases hr : o.cmdReady with
  | false =>
    rw [hostIssue_of_not_ready hr]
    exact ⟨rfl, by simp⟩
  | true =>
    rw [hostObserve_of_commandsDone e hr, hostIssue_of_none (nextCommand_of_waiting rfl)]
    exact ⟨rfl, fun _ => rfl⟩

/-- The halted wait (R185). -/
theorem hostCycle_of_waiting_no_wake (e : h.place = .waiting) (hw : o.wake = false) :
    hostCycle hp p c o h = { host := h, rst := false, command := none } := by
  have hm : h.mode = .standby := mode_of_place e
  rw [hostCycle_of_standby hm, hostObserve_of_waiting_no_wake e hw,
    hostIssue_of_none (nextCommand_of_waiting e)]

/-- Woken, the host polls (R185). -/
theorem hostCycle_of_woken (e : h.place = .woken) :
    (hostCycle hp p c o h).command = some .irpoll ∧
      (hostCycle hp p c o h).host.place = .polling .standby ∨
    (hostCycle hp p c o h).command = none ∧ (hostCycle hp p c o h).host.place = .woken := by
  have hm : h.mode = .standby := mode_of_place e
  have hnext := nextCommand_of_woken e
  rw [hostCycle_of_standby hm, hostObserve_of_next (by simp [hnext]), ← e]
  simpa using hostIssue_command_or_stays hnext

/-- A poll of STANDBY that does not leave it issues nothing: it goes on, or the host waits again. -/
theorem hostCycle_of_polling_standby (e : h.place = .polling .standby)
    (hstays : (hostCycle hp p c o h).host.mode = .standby) :
    (hostCycle hp p c o h).command = none := by
  have hm : h.mode = .standby := mode_of_place e
  have hh : ¬ powerHeard hp o h := fun hh => by
    cases hstays.symm.trans ((hostCycle_mode_of_standby hm).mpr hh)
  rw [hostCycle_of_standby hm]
  cases hr : o.cmdReady with
  | false => rw [hostIssue_of_not_ready hr]
  | true =>
    rw [hostObserve_of_otherResponse e hr hh, hostIssue_of_none (nextCommand_of_waiting rfl)]

end

/-- Settles O60: in STANDBY the observation alone decides the next state (R186). -/
theorem standbyIsLeftOnlyByThePowerCommand : Obligations.StandbyIsLeftOnlyByThePowerCommand := by
  intro hp p c o h
  refine ⟨fun e hr hok hcmd => ?_, fun hm => ⟨hostCycle_mode_of_standby hm, ?_⟩,
    fun inFrame => hostCycle_of_cleared, hostCycle_of_waiting_no_wake, hostObserve_of_waiting_wake,
    hostCycle_of_woken, hostCycle_of_polling_standby⟩
  · rw [hostObserve_of_polling e hr, hok, hcmd]
    simp [endPoll, applyCommand, enterStandby, goTo]
  · have := hostCycle_animation_of_standby (hp := hp) (p := p) (c := c) (o := o) hm
    simpa [HostState.animation] using this

end Sys2Proof.Machine
end

section
/-! PROOFS of the reset family: the registers after a reset step (R42, R210), the first cycle after it and
the wake pulse in the second (R211). -/

namespace Sys2Proof.Machine

/-! ## The wake registers after a reset step -/

@[simp] theorem resetEdge_irPrev (s : State) : (resetEdge s).irPrev = true := nextCycle_irPrev _

@[simp] theorem resetEdge_wake (s : State) : (resetEdge s).wake = false := nextCycle_wake _

/-! ## The state after a reset step -/

/-- Settles O10, one register group at a time. -/
theorem resetStepSetsEveryRegister : Obligations.ResetStepSetsEveryRegister := by
  intro s hp hr
  obtain ⟨hdout, hphase, hcnt, hsr, hnbits, hbuf0, hbuf1, hbuf2, hnch, hncol⟩ :=
    PtxRegs.mk.inj (ptxRegs_resetEdge s)
  obtain ⟨hist, htick, hdur, hshreg, hnrx⟩ := IrdRegs.mk.inj (irdRegs_resetEdge s)
  obtain ⟨hvalid, hok, hcmd⟩ := RspRegs.mk.inj (rspRegs_resetEdge s)
  exact ⟨resetEdge s, step_of_reset hp hr, resetEdge_params s,
    hdout, hphase, hcnt, hsr, hnbits, hbuf0, hbuf1, hbuf2, hnch, hncol, resetEdge_irPrev s,
    hist, htick, hdur, hshreg, hnrx, hvalid, hok, hcmd, resetEdge_wake s⟩

/-- With the line LOW in the first cycle after a reset step, `wake` pulses in the second: the reset left
`ir_prev` at the idle level (R37, R211). -/
theorem wake_in_second_cycle_after_reset {s : State} (hp : meetsRules s.params)
    (hir : (resetEdge s).pins.irIn = false) (hr : (resetEdge s).pins.rst = false) :
    ∃ u, step (resetEdge s) = .next u ∧ u.wake = true := by
  obtain ⟨u, hu⟩ := step_next (s := resetEdge s) (by rwa [resetEdge_params])
  obtain ⟨-, hwake⟩ := step_wake hr hu
  exact ⟨u, hu, by rw [hwake, hir, resetEdge_irPrev]; rfl⟩

/-- Settles O11: both units hold their reset values, so the block is ready. -/
theorem blockIsReadyAfterReset : Obligations.BlockIsReadyAfterReset := by
  intro s hp hr
  have hdout : (resetEdge s).dout = false := congrArg PtxRegs.dout (ptxRegs_resetEdge s)
  have hphase : (resetEdge s).phase = .idle := congrArg PtxRegs.phase (ptxRegs_resetEdge s)
  have hist : (resetEdge s).ist = .idle := congrArg IrdRegs.ist (irdRegs_resetEdge s)
  exact ⟨rfl, resetEdge s, step_of_reset hp hr, hphase, hist, cmdReady_iff.mpr ⟨hphase, hist⟩, hdout,
    rspRegs_resetEdge s, resetEdge_wake s, resetEdge_irPrev s, wake_in_second_cycle_after_reset hp⟩

end Sys2Proof.Machine
end
